-- ==== Sys2Proof/Word.lean ====
section
/-! DEFINITION. The one data type of OWC: every datum it handles is 8 bits wide
(00_scope.md R12). -/

namespace Sys2Proof

/-- `u8` of 00_scope.md §5: frames, bytes, the checksum accumulator and every
host-port register (00_scope.md R12). -/
abbrev Byte := BitVec 8

end Sys2Proof
end

