-- ==== Sys2Proof/Syntax.lean ====
section
/-! DEFINITION. The command set, the command format and the assembler's source lines
(30_encoding.md R52 to R64). -/

namespace Sys2Proof

/-- The eight commands of 30_encoding.md R54, one constructor per row of
spec/opcode_table.json. A command byte has no operand field: the one operand a command
takes is the value of DATA at accept (30_encoding.md R53). -/
inductive Instr where
  | init
  | owreset
  | wbit
  | rbit
  | wbyte
  | rbyte
  | crcclr
  | crcupd
deriving DecidableEq, Repr

/-- A command byte in the one format `CMD8`: `RSV` in bits 7:4, `OP` in bits 3:0
(30_encoding.md R52). -/
structure Cmd8 where
  rsv : BitVec 4
  op : BitVec 4
deriving DecidableEq, Repr

/-- One line of an assembler program (30_encoding.md R62): a command with its operand,
a pseudo-instruction of R64, a raw host access, or a blank or comment line. Numbers are
kept as written; `WellFormed.lean` says which lines an assembler refuses. -/
inductive SourceLine where
  | command (i : Instr) (operand : Option Nat)
  | wait
  | rddata
  | rdstat
  | rdcrc
  | wbytes (bs : List Nat)
  | rbytes (n : Nat)
  | crc (bs : List Nat)
  | presence
  | hw (a v : Nat)
  | hr (a : Nat)
  | blank
deriving DecidableEq, Repr

end Sys2Proof
end

