-- ==== Sys2Proof/WellFormed.lean ====
section
/-! DEFINITION. What makes a command byte legal and what makes an assembler accept a line
(30_encoding.md R52, R54, R55, R62). `Instr` carries no field, so every instruction is
well-formed; the checks are those of the byte's format and of the source line's numbers. -/

namespace Sys2Proof

/-- A command byte is legal when `RSV` is 0 and `OP` is one of the eight opcodes
(30_encoding.md R52, R54, R55). -/
def Cmd8.wellFormed (c : Cmd8) : Bool :=
  c.rsv == 0#4 && decide (1 ≤ c.op.toNat) && decide (c.op.toNat ≤ 8)

/-- The numbers a command line may carry: 0 or 1 for WBIT, 0..255 for WBYTE and CRCUPD,
none for the other commands (30_encoding.md R62). -/
def Instr.operandOk (i : Instr) (operand : Option Nat) : Bool :=
  match i, operand with
  | .wbit, some n => decide (n ≤ 1)
  | .wbyte, some n => decide (n ≤ 255)
  | .crcupd, some n => decide (n ≤ 255)
  | .init, none => true
  | .owreset, none => true
  | .rbit, none => true
  | .rbyte, none => true
  | .crcclr, none => true
  | _, _ => false

/-- The lines an assembler accepts: every number in the range of its place
(30_encoding.md R62; the host port's ranges are those of 20_memory.md R32 and R34). -/
def SourceLine.wellFormed : SourceLine → Bool
  | .command i operand => i.operandOk operand
  | .wbytes bs => bs.all fun b => decide (b ≤ 255)
  | .crc bs => bs.all fun b => decide (b ≤ 255)
  | .hw a v => decide (a ≤ 3) && decide (v ≤ 255)
  | .hr a => decide (a ≤ 3)
  | .wait => true
  | .rddata => true
  | .rdstat => true
  | .rdcrc => true
  | .rbytes _ => true
  | .presence => true
  | .blank => true

end Sys2Proof
end

