-- ==== Sys2Proof/Decode.lean ====
section
/-! DEFINITION. The decoder of command bytes, total and rejecting by name, and the encoder
written from the same table (30_encoding.md R52 to R56, spec/opcode_table.json). -/

namespace Sys2Proof

/-- Why a byte sequence is no command (30_encoding.md R55). -/
inductive DecodeError where
  /-- There is no byte to decode. -/
  | noByte
  /-- `RSV` is not `0b0000`. -/
  | reservedBits (b : Byte)
  /-- `RSV` is 0 and `OP` is none of the eight opcodes. -/
  | illegalOpcode (b : Byte)
deriving DecidableEq, Repr

/-- The two fields of a command byte (30_encoding.md R52). -/
def Cmd8.ofByte (b : Byte) : Cmd8 := ⟨b.extractLsb' 4 4, b.extractLsb' 0 4⟩

/-- The byte of two fields (30_encoding.md R52). -/
def Cmd8.toByte (c : Cmd8) : Byte := c.rsv ++ c.op

/-- The opcode map, read from `OP` to the command (30_encoding.md R54). -/
def instrOfOp (op : BitVec 4) : Option Instr :=
  match op.toNat with
  | 1 => some .init
  | 2 => some .owreset
  | 3 => some .wbit
  | 4 => some .rbit
  | 5 => some .wbyte
  | 6 => some .rbyte
  | 7 => some .crcclr
  | 8 => some .crcupd
  | _ => none

/-- Decode of one command byte. Each of the 256 values is one of the eight commands or is
rejected by name (30_encoding.md R56). -/
def decodeByte (b : Byte) : Except DecodeError Instr :=
  let c := Cmd8.ofByte b
  if c.rsv = 0#4 then
    match instrOfOp c.op with
    | some i => .ok i
    | none => .error (.illegalOpcode b)
  else .error (.reservedBits b)

/-- Decode of the first command of a byte sequence. Every command is exactly one byte
(30_encoding.md R52). -/
def decode : List Byte → Except DecodeError (Instr × List Byte)
  | [] => .error .noByte
  | b :: rest =>
    match decodeByte b with
    | .ok i => .ok (i, rest)
    | .error e => .error e

/-- The opcode map, read from the command to `OP` (30_encoding.md R54). -/
def Instr.op : Instr → BitVec 4
  | .init => 1#4
  | .owreset => 2#4
  | .wbit => 3#4
  | .rbit => 4#4
  | .wbyte => 5#4
  | .rbyte => 6#4
  | .crcclr => 7#4
  | .crcupd => 8#4

/-- The command byte: `RSV` is 0 in a legal command (30_encoding.md R52). -/
def encodeByte (i : Instr) : Byte := Cmd8.toByte ⟨0#4, i.op⟩

/-- The words of a command: one byte (30_encoding.md R52). -/
def encode (i : Instr) : List Byte := [encodeByte i]

/-- The mnemonic of a command (30_encoding.md R54). -/
def Instr.mnemonic : Instr → List Char
  | .init => ['I', 'N', 'I', 'T']
  | .owreset => ['O', 'W', 'R', 'E', 'S', 'E', 'T']
  | .wbit => ['W', 'B', 'I', 'T']
  | .rbit => ['R', 'B', 'I', 'T']
  | .wbyte => ['W', 'B', 'Y', 'T', 'E']
  | .rbyte => ['R', 'B', 'Y', 'T', 'E']
  | .crcclr => ['C', 'R', 'C', 'C', 'L', 'R']
  | .crcupd => ['C', 'R', 'C', 'U', 'P', 'D']

/-- The bytes of an instruction given as one number of `nbits` bits, the first byte in its
least significant bits. -/
def tableBytes (nbits w : Nat) : List Byte :=
  (List.range (nbits / 8)).map fun j => BitVec.ofNat 8 (w % 2 ^ nbits / 2 ^ (8 * j))

/-- The command this decoder reads from a word of spec/opcode_table.json. -/
def decodeTableWord (nbits w : Nat) : Option Instr :=
  match decode (tableBytes nbits w) with
  | .ok (i, _) => some i
  | .error _ => none

end Sys2Proof
end

