-- ==== Sys2Proof/Config.lean ====
section
/-! DEFINITION. What one OWC fixes and the spec leaves open: the OPEN parameters of
00_scope.md R10 and R11, and the Line's unconstrained draws (20_memory.md R44,
60_exceptions.md R100). Every open value is an opaque constant without a body, so
no proof can see what it is. -/

namespace Sys2Proof

/-- What the Line answers to a `SerialTransmit` (20_memory.md R41). -/
inductive TxAnswer where
  | ok
  | timeout
deriving DecidableEq, Repr, Inhabited

/-- What the Line answers to a `SerialReceive`: the frame sensed during the
preceding transmit, or `TIMEOUT` (20_memory.md R42). -/
inductive RxAnswer where
  | frame (v : Byte)
  | timeout
deriving DecidableEq, Repr, Inhabited

/-- A free value: the Line's answer to the transmit that takes draw number `n`
(60_exceptions.md R100, 93_implementation_defined.md K2; DESIGN CHOICE, log 3). -/
opaque Config.freeTransmit : Nat → TxAnswer

/-- A free value: the Line's answer to the receive that takes draw number `n`, any
frame or a timeout (20_memory.md R44, 93_implementation_defined.md K1 and K2; DESIGN CHOICE, log 3). -/
opaque Config.freeReceive : Nat → RxAnswer

/-- Together with `baudGap`, the OPEN baud parameters (00_scope.md R10, K3; DEDUCED, log 14). -/
opaque Config.resetBaudBelow : Nat

/-- How far the data rate lies above the reset rate, less one (00_scope.md R10, K3; DEDUCED, log 14). -/
opaque Config.baudGap : Nat

/-- `P_RESET_BAUD`, a positive number, OPEN. No rule reads it (00_scope.md R10). -/
def Config.resetBaud : Nat := Config.resetBaudBelow + 1

/-- `P_DATA_BAUD`, any number above `P_RESET_BAUD`, OPEN. No rule reads it
(00_scope.md R10). -/
def Config.dataBaud : Nat := Config.resetBaud + Config.baudGap + 1

/-- `P_WAIT_BOUND`, finite and OPEN. The model has no time and never reads it: a wait
that exceeds it is the answer `timeout` of a draw (00_scope.md R11, K4). -/
opaque Config.waitBound : Nat

end Sys2Proof
end

