-- ==== Sys2Proof/Machine/State.lean ====
section
/-! DEFINITION. The machine's state as plain data: OWC's own state (10_state.md R13), and
beside it the two other agents of 00_scope.md R9, the Line and the Host, as data the step
reads: the Line's coming answers, the schedule of host accesses, Core turns and resets, and
the record of what happened on the serial port and of what the Host read. -/

namespace Sys2Proof.Machine

/-- The two legal baud rates (00_scope.md R10, 10_state.md R26). -/
inductive Rate where
  | data
  | reset
deriving DecidableEq, Repr

/-- The sequencer: no command, or command byte `c` with `k` serial operations issued so far
(10_state.md R15). -/
inductive Seq where
  | idle
  | run (c : Byte) (k : Nat)
deriving DecidableEq, Repr

/-- The result codes that OWC produces (60_exceptions.md R90). -/
inductive ErrCode where
  | none
  | noDevice
  | timeout
  | illegalCmd
  | notInit
deriving DecidableEq, Repr

/-- One entry of the serial trace (95_test_vectors.md, notation), with the rate BAUD_SEL names
when a frame is sent. What a transmit that timed out put on the bus is left open
(93_implementation_defined.md K5; DEDUCED, log 8). `cutByReset` is no serial operation: it marks that
reset abandoned a command, and that the frame then in flight reached the bus in part, in full
or not at all (70_reset_and_hazards.md R109, K6; DESIGN CHOICE, log 7). -/
inductive SerialOp where
  | configure (rate : Rate)
  | transmit (rate : Rate) (f : Byte) (a : TxAnswer)
  | receive (a : RxAnswer)
  | cutByReset
deriving DecidableEq, Repr

/-- The Line agent (00_scope.md R9). `listed tx rx` is the unconstrained line of 20_memory.md
R44 and 60_exceptions.md R100: its answers to the next transmits and receives are those listed,
as far as they go, and free values after that. `echo` (the last frame sent) and `bitStore` (the
FIFO `Q`, head first, and the flag `pend`) are the two test doubles of 20_memory.md R46. -/
inductive Line where
  | listed (tx : List TxAnswer) (rx : List RxAnswer)
  | echo (last : Byte)
  | bitStore (q : List Bool) (pend : Bool)
deriving DecidableEq, Repr

/-- A host-port access as a Host may spell it: its width in bits, its address and, for a write,
the low eight bits of its data (20_memory.md R32 to R37). Only width 8 and addresses 0..3 have
an OWC meaning (93_implementation_defined.md K10, K11). -/
inductive HostAccess where
  | write (bits addr : Nat) (v : Byte)
  | read (bits addr : Nat)
deriving DecidableEq, Repr

/-- One entry of the schedule: which agent moves next (20_memory.md R48). `core` is the Core's
turn. `wait` is the Host's polling loop WAIT (30_encoding.md R64). -/
inductive Event where
  | host (a : HostAccess)
  | wait
  | core
  | hardwareReset
deriving DecidableEq, Repr

/-- Everything the spec gives the machine (10_state.md R13), and the agents around it. STATUS
is stored once: BUSY is `seq`, BAUD is `baudSel`, and the other fields stand here under their
own names (10_state.md R18 to R24). -/
structure State where
  /-- CMD, the last accepted command byte (10_state.md R16). -/
  cmd : Byte
  /-- DATA, operand and result register (10_state.md R17). -/
  data : Byte
  /-- CRC, the checksum accumulator (10_state.md R25). -/
  crc : Byte
  /-- STATUS.PRESENT (10_state.md R20). -/
  present : Bool
  /-- STATUS.ERR, three bits wide as in STATUS (10_state.md R21). -/
  err : BitVec 3
  /-- STATUS.INITD (10_state.md R23). -/
  initd : Bool
  /-- STATUS.HOSTERR (10_state.md R24). -/
  hosterr : Bool
  /-- BAUD_SEL (10_state.md R26). -/
  baudSel : Rate
  /-- SEQ (10_state.md R15). -/
  seq : Seq
  /-- SHIFT (10_state.md R28). -/
  shift : Byte
  /-- BITCNT, values 0..8 (10_state.md R28). -/
  bitcnt : Fin 9
  /-- The model's own field: the last serial call answered TIMEOUT, so the next Core step is
  the abort step (60_exceptions.md R101; DEDUCED, log 4). -/
  timedOut : Bool
  /-- The model's own field: the pseudocode's local `rx`, the frame the last receive answered
  (41_reset_presence.md R68, 42_bit_io.md R75, 43_byte_io.md R78; DEDUCED, log 4). -/
  rx : Byte
  /-- The Line's: the rate the serial peripheral is configured to, `none` while it is unknown
  (70_reset_and_hazards.md R118, K7; DEDUCED, log 6). -/
  periph : Option Rate
  /-- The Line's coming answers (DESIGN CHOICE, log 3 and log 13). -/
  line : Line
  /-- The model's own field: how many free draws the Line has made (DESIGN CHOICE, log 3). -/
  draws : Nat
  /-- The model's own field: the serial trace, oldest first (DESIGN CHOICE, log 5). -/
  trace : List SerialOp
  /-- The model's own field: the schedule, next event first (DESIGN CHOICE, log 1). -/
  events : List Event
  /-- The model's own field: what the Host has read, oldest first (DESIGN CHOICE, log 5). -/
  reads : List (Nat × Byte)
deriving DecidableEq, Repr

/-- Where the machine stops because no OWC is in such a state. -/
inductive Fault where
  /-- Raised by a meaning, or by the step for an illegal byte, when SEQ names no Core step of the
  command: idle, or more serial calls than the command makes (10_state.md R15). No run from reset
  gets there. Safe: the hardware has no such state (DEDUCED, log 10). -/
  | noCoreStep
  /-- Raised by the step when STATUS.ERR holds 5, 6 or 7, which OWC never produces
  (93_implementation_defined.md K9). No run from reset gets there. Safe (DEDUCED, log 9). -/
  | reservedErrCode
deriving DecidableEq, Repr

/-- What the model refuses because the spec says that a model refuses it. -/
inductive Refusal where
  /-- An instruction without a meaning. No arm of `exec` is refused this way. Safe. -/
  | notModelled (mnemonic : String)
  /-- Raised by the host port on an access of a width other than 8 bits (20_memory.md R34,
  93_implementation_defined.md K10). Safe (DEDUCED, log 11). -/
  | hostAccessWidth
  /-- Raised by the host port on an address outside 0..3 (20_memory.md R32,
  93_implementation_defined.md K11). Safe (DEDUCED, log 11). -/
  | hostAccessAddress
  /-- Raised by a transmit of `0xF0` on the `bitStore` double, which is defined only for runs
  without OWRESET (20_memory.md R46, 93_implementation_defined.md K15). Safe (DESIGN CHOICE, log 13). -/
  | bitStoreResetFrame
deriving DecidableEq, Repr

/-- The machine after power-up reset (70_reset_and_hazards.md R108, 10_state.md R13). The fields
after `bitcnt` are the model's own or the other agents', at the values log 20 names. -/
def State.reset : State where
  cmd := 0x00#8
  data := 0x00#8
  crc := 0x00#8
  present := false
  err := 0#3
  initd := false
  hosterr := false
  baudSel := .data
  seq := .idle
  shift := 0x00#8
  bitcnt := 0
  timedOut := false
  rx := 0x00#8
  periph := none
  line := .listed [] []
  draws := 0
  trace := []
  events := []
  reads := []

end Sys2Proof.Machine
end

