-- ==== Sys2Proof/Machine/Flags.lean ====
section
/-! DEFINITION. The STATUS register as the Host reads it, its codes and its views
(10_state.md R18 to R24, R30; 60_exceptions.md R90). OWC has no other flags. -/

namespace Sys2Proof.Machine

/-- The three-bit code of a result (60_exceptions.md R90). -/
def ErrCode.code : ErrCode → BitVec 3
  | .none => 0#3
  | .noDevice => 1#3
  | .timeout => 2#3
  | .illegalCmd => 3#3
  | .notInit => 4#3

/-- STATUS.BUSY: 1 exactly when `SEQ != IDLE` (10_state.md R19). -/
def State.busy (s : State) : Bool :=
  match s.seq with
  | .idle => false
  | .run _ _ => true

/-- STATUS.BAUD as a bit: 0 at the data rate, 1 at the reset rate (10_state.md R22). -/
def Rate.bit : Rate → Bool
  | .data => false
  | .reset => true

/-- The STATUS byte: HOSTERR 7, INITD 6, BAUD 5, ERR 4:2, PRESENT 1, BUSY 0
(10_state.md R18). -/
def State.statusByte (s : State) : Byte :=
  BitVec.ofBool s.hosterr ++ BitVec.ofBool s.initd ++ BitVec.ofBool s.baudSel.bit ++ s.err
    ++ BitVec.ofBool s.present ++ BitVec.ofBool s.busy

/-- A value of STATUS.ERR that OWC never produces (10_state.md R21,
93_implementation_defined.md K9). -/
def reservedErr (e : BitVec 3) : Bool := decide (5 ≤ e.toNat)

end Sys2Proof.Machine
end

