-- ==== Sys2Proof/Machine/Operands.lean ====
section
/-! DEFINITION. The operands a command reads from DATA (30_encoding.md R53), the frames that
stand for bits (30_encoding.md R58, R61) and the data path of the byte commands
(10_state.md R28). -/

namespace Sys2Proof.Machine

/-- The bit WBIT writes, `DATA[0]`; `DATA[7:1]` is ignored (30_encoding.md R53). -/
def State.bitOperand (s : State) : Bool := s.data.getLsbD 0

/-- The byte WBYTE writes and CRCUPD folds, `DATA[7:0]` (30_encoding.md R53). -/
def State.byteOperand (s : State) : Byte := s.data

/-- The reset frame (30_encoding.md R58). -/
def resetFrame : Byte := 0xF0#8

/-- The read-probe frame (30_encoding.md R58). -/
def probeFrame : Byte := 0xFF#8

/-- The write-bit frame: `0xFF` for 1, `0x00` for 0 (30_encoding.md R58). -/
def bitFrame (b : Bool) : Byte := if b then 0xFF#8 else 0x00#8

/-- The result bit of a probe: bit 0 of the readback (30_encoding.md R61). -/
def readBit (rx : Byte) : Bool := rx.getLsbD 0

/-- `zext_8` of one bit (00_scope.md §5). -/
def zext8 (b : Bool) : Byte := (BitVec.ofBool b).zeroExtend 8

/-- Presence: all 8 bits of the readback are compared with `0xF0`, and the device is present
exactly when they differ (41_reset_presence.md R69, 90_conflicts.md C1). -/
def presenceOf (rx : Byte) : Bool := rx != resetFrame

/-- The result code of an OWRESET that was read back (41_reset_presence.md R68). -/
def presenceErr (rx : Byte) : ErrCode := if presenceOf rx then .none else .noDevice

/-- `SHIFT >> 1`, exposing the next bit to send (43_byte_io.md R77). -/
def shiftOut (v : Byte) : Byte := v >>> 1

/-- `(SHIFT >> 1) OR (zext_8(b) << 7)`, taking in a bit read (43_byte_io.md R78). -/
def shiftIn (v : Byte) (b : Bool) : Byte := (v >>> 1) ||| (zext8 b <<< 7)

/-- The optional premise `WIRED_AND(f, r)` of a claim: a sensed frame has a 1 only where the
frame sent has a 1. The Line does not build it in (20_memory.md R44). -/
def wiredAnd (f r : Byte) : Bool := (r &&& ~~~f) == 0x00#8

end Sys2Proof.Machine
end

