-- ==== Sys2Proof/Machine/Ops.lean ====
section
/-! DEFINITION. The shared operations: the Line's answers, the three serial operations, the
command lifecycle (accept, refusal at dispatch, abort, completion), the host port and reset. -/

namespace Sys2Proof.Machine

/-- What one step of this machine answers. -/
abbrev Result := Host.Outcome State Fault Refusal

/-! ## The Line -/

/-- The Line's answer to `SerialTransmit(f)`, the Line after it and the draws made; `none` where
the `BITSTORE` double is given a reset frame (20_memory.md R41, R45, R46). -/
def Line.transmit (f : Byte) (draws : Nat) : Line → Option (TxAnswer × Line × Nat)
  | .listed (a :: tx) rx => some (a, .listed tx rx, draws)
  | .listed [] rx => some (Config.freeTransmit draws, .listed [] rx, draws + 1)
  | .echo _ => some (.ok, .echo f, draws)
  | .bitStore q pend =>
    if f = resetFrame then none
    else
      let q₁ := if pend then q ++ [true] else q
      let q₂ := if f = 0x00#8 then q₁ ++ [false] else q₁
      some (.ok, .bitStore q₂ (f == 0xFF#8), draws)

/-- The Line's answer to `SerialReceive()`, the Line after it and the draws made
(20_memory.md R42, R44 to R46; UNVERIFIED, log 16). -/
def Line.receive (draws : Nat) : Line → RxAnswer × Line × Nat
  | .listed tx (a :: rx) => (a, .listed tx rx, draws)
  | .listed tx [] => (Config.freeReceive draws, .listed tx [], draws + 1)
  | .echo last => (.frame last, .echo last, draws)
  | .bitStore [] _ => (.frame 0xFF#8, .bitStore [] false, draws)
  | .bitStore (b :: q) _ => (.frame (if b then 0xFF#8 else 0xFE#8), .bitStore q false, draws)

/-- The Line after `SerialConfigure(rate)`: only `BITSTORE` notices one (20_memory.md R46). -/
def Line.configure : Line → Line
  | .listed tx rx => .listed tx rx
  | .echo last => .echo last
  | .bitStore q pend => .bitStore (if pend then q ++ [true] else q) false

/-- Whether a transmit answer is TIMEOUT. -/
def txTimedOut : TxAnswer → Bool
  | .ok => false
  | .timeout => true

/-- Whether a receive answer is TIMEOUT. -/
def rxTimedOut : RxAnswer → Bool
  | .frame _ => false
  | .timeout => true

/-- The local `rx` after a receive: the frame answered, and what it was after a timeout, which
ends the command before `rx` is used. -/
def rxFrameOr (old : Byte) : RxAnswer → Byte
  | .frame v => v
  | .timeout => old

/-! ## The serial port -/

/-- SEQ after one more serial call (10_state.md R15). -/
def Seq.called : Seq → Seq
  | .idle => .idle
  | .run c k => .run c (k + 1)

/-- `SerialConfigure(rate)`: BAUD_SEL changes in the same step, and it cannot time out
(20_memory.md R40; UNVERIFIED, log 16). -/
def serialConfigure (rate : Rate) (s : State) : State :=
  { s with
    baudSel := rate
    periph := some rate
    line := s.line.configure
    timedOut := false
    trace := s.trace ++ [.configure rate]
    seq := s.seq.called }

/-- The state after a transmit of `f` that the Line answered with `a`, the Line being `l` and
its draws `d` afterwards (20_memory.md R41; DEDUCED, log 18). -/
def afterTransmit (f : Byte) (a : TxAnswer) (l : Line) (d : Nat) (s : State) : State :=
  { s with
    line := l
    draws := d
    timedOut := txTimedOut a
    trace := s.trace ++ [.transmit s.baudSel f a]
    seq := s.seq.called }

/-- `SerialTransmit(f)` (20_memory.md R41). -/
def serialTransmit (f : Byte) (s : State) : Result :=
  match s.line.transmit f s.draws with
  | some (a, l, d) => .next (afterTransmit f a l d s)
  | none => .refused .bitStoreResetFrame

/-- The state after a receive that the Line answered with `a` (20_memory.md R42). -/
def afterReceive (a : RxAnswer) (l : Line) (d : Nat) (s : State) : State :=
  { s with
    line := l
    draws := d
    timedOut := rxTimedOut a
    rx := rxFrameOr s.rx a
    trace := s.trace ++ [.receive a]
    seq := s.seq.called }

/-- `SerialReceive()` (20_memory.md R42). -/
def serialReceive (s : State) : State :=
  match s.line.receive s.draws with
  | (a, l, d) => afterReceive a l d s

/-! ## The command lifecycle -/

/-- Accept of command byte `v` (60_exceptions.md R97). The accept of INIT also clears PRESENT
and HOSTERR (40_init.md R65). -/
def accept (v : Byte) (s : State) : State :=
  { s with
    cmd := v
    seq := .run v 0
    err := ErrCode.none.code
    present := if v = encodeByte .init then false else s.present
    hosterr := if v = encodeByte .init then false else s.hosterr
    timedOut := false }

/-- The end of every command: SEQ is IDLE, so BUSY is 0 (60_exceptions.md R99). -/
def finish (s : State) : State := { s with seq := .idle, timedOut := false }

/-- How every error is reported, OWC's form of taking an exception: ERR takes the code and the
command ends (60_exceptions.md R90, R98). There is no handler, no saved state and no return
operation: the next accept clears ERR (R102). -/
def endWithError (e : ErrCode) (s : State) : State := finish { s with err := e.code }

/-- The abort step of TransportTimeout: the data rate is restored, an OWRESET reports no
presence, and ERR is TIMEOUT (60_exceptions.md R101; DEDUCED, log 8 and log 19). -/
def abort (s : State) : State :=
  let s₁ := if s.baudSel = .reset then serialConfigure .data s else s
  endWithError .timeout { s₁ with present := if s.cmd = encodeByte .owreset then false else s.present }

/-- One Core step of a bus command whose body is `body k` after `k` serial calls. Dispatch, in
the first step, refuses it while INITD is 0 (60_exceptions.md R94, R98). A later step whose
serial call timed out is the abort step (R101). -/
def busStep (s : State) (body : Nat → Result) : Result :=
  match s.seq with
  | .idle => .fault .noCoreStep
  | .run _ 0 => if s.initd then body 0 else .next (endWithError .notInit s)
  | .run _ (k + 1) => if s.timedOut then .next (abort s) else body (k + 1)

/-- One Core step of a command that is never refused and makes no call that can time out. -/
def plainStep (s : State) (body : Nat → Result) : Result :=
  match s.seq with
  | .idle => .fault .noCoreStep
  | .run _ k => body k

/-- The one Core step of an illegal command byte (60_exceptions.md R93, R98). -/
def illegalStep (s : State) : Result :=
  match s.seq with
  | .run _ 0 => .next (endWithError .illegalCmd s)
  | .run _ (_ + 1) => .fault .noCoreStep
  | .idle => .fault .noCoreStep

/-! ## The host port -/

/-- The register at a host address (20_memory.md R33); none outside 0..3 (R32). -/
def State.register (s : State) : Nat → Option Byte
  | 0 => some s.cmd
  | 1 => some s.data
  | 2 => some s.statusByte
  | 3 => some s.crc
  | _ => none

/-- `HostRead(a)`: the Host gets the register's value, and no OWC state changes
(20_memory.md R35). -/
def hostRead (a : Nat) (s : State) : Result :=
  match s.register a with
  | some v => .next { s with reads := s.reads ++ [(a, v)] }
  | none => .refused .hostAccessAddress

/-- `HostWrite(a, v)` (20_memory.md R33, R36, R37). -/
def hostWrite (a : Nat) (v : Byte) (s : State) : Result :=
  match a with
  | 0 => .next (if s.busy then { s with hosterr := true } else accept v s)
  | 1 => .next (if s.busy then { s with hosterr := true } else { s with data := v })
  | 2 => .next s
  | 3 => .next s
  | _ => .refused .hostAccessAddress

/-- One host access. A width other than 8 bits has no OWC meaning (20_memory.md R34). -/
def hostAccess (acc : HostAccess) (s : State) : Result :=
  match acc with
  | .write bits a v => if bits = 8 then hostWrite a v s else .refused .hostAccessWidth
  | .read bits a => if bits = 8 then hostRead a s else .refused .hostAccessWidth

/-- One poll of the Host loop WAIT: read STATUS, and while bit 0 is 1 give the Core a turn and
poll again (30_encoding.md R64; DESIGN CHOICE, log 12). -/
def waitPoll (s : State) : Result :=
  hostRead 2 (if s.busy then { s with events := .core :: .wait :: s.events } else s)

/-! ## Reset -/

/-- The reset event: all OWC state takes its reset value, no serial operation is performed, and
a command in progress is abandoned. What lies outside OWC stays, except that OWC no longer knows
the peripheral's rate (70_reset_and_hazards.md R108, R109, R118; log 6, DEDUCED; log 7, DESIGN CHOICE). -/
def hardwareReset (s : State) : State :=
  { State.reset with
    line := s.line
    draws := s.draws
    trace := if s.busy then s.trace ++ [.cutByReset] else s.trace
    events := s.events
    reads := s.reads }

end Sys2Proof.Machine
end

