-- ==== Sys2Proof/Machine/BitIo.lean ====
section
/-! DEFINITION. WBIT and RBIT (42_bit_io.md). -/

namespace Sys2Proof.Machine

/-- WBIT: one frame for `DATA[0]` (42_bit_io.md R74). -/
def execWbit (s : State) : Result :=
  busStep s fun
    | 0 => serialTransmit (bitFrame s.bitOperand) s
    | 1 => .next (finish s)
    | _ + 2 => .fault .noCoreStep

/-- RBIT: a probe and its readback, whose bit 0 goes to DATA (42_bit_io.md R75). -/
def execRbit (s : State) : Result :=
  busStep s fun
    | 0 => serialTransmit probeFrame s
    | 1 => .next (serialReceive s)
    | 2 => .next (finish { s with data := zext8 (readBit s.rx) })
    | _ + 3 => .fault .noCoreStep

end Sys2Proof.Machine
end

