-- ==== Sys2Proof/Machine/ByteIo.lean ====
section
/-! DEFINITION. WBYTE and RBYTE (43_byte_io.md). -/

namespace Sys2Proof.Machine

/-- The data path of WBYTE before its slot `k`: SHIFT is loaded from DATA, then shifted right
once per bit sent (43_byte_io.md R77, 10_state.md R28; DEDUCED, log 17). -/
def writeSlot (k : Nat) (s : State) : State :=
  { s with
    shift := if k = 0 then s.byteOperand else shiftOut s.shift
    bitcnt := Fin.ofNat 9 k }

/-- The data path of RBYTE before its slot `i`: SHIFT is cleared, then takes in the bit of the
readback just received (43_byte_io.md R78, 10_state.md R28; DEDUCED, log 17). -/
def readSlot (i : Nat) (s : State) : State :=
  { s with
    shift := if i = 0 then 0x00#8 else shiftIn s.shift (readBit s.rx)
    bitcnt := Fin.ofNat 9 i }

/-- WBYTE: eight write-bit slots, bit 0 first (43_byte_io.md R77). -/
def execWbyte (s : State) : Result :=
  busStep s fun k =>
    let s₁ := writeSlot k s
    if k < 8 then serialTransmit (bitFrame (s₁.shift.getLsbD 0)) s₁
    else if k = 8 then .next (finish s₁)
    else .fault .noCoreStep

/-- RBYTE: eight probes with their readbacks, the first bit read into bit 0
(43_byte_io.md R78). After an even number of serial calls the next call is a probe, after an
odd number the readback. -/
def execRbyte (s : State) : Result :=
  busStep s fun k =>
    if k % 2 = 1 then
      if k < 16 then .next (serialReceive s) else .fault .noCoreStep
    else
      let s₁ := readSlot (k / 2) s
      if k < 16 then serialTransmit probeFrame s₁
      else if k = 16 then .next (finish { s₁ with data := s₁.shift })
      else .fault .noCoreStep

end Sys2Proof.Machine
end

