-- ==== Sys2Proof/Machine/Checksum.lean ====
section
/-! DEFINITION. The Checksum Engine: the fold, CRCCLR and CRCUPD (44_checksum.md). -/

namespace Sys2Proof.Machine

/-- The reflected polynomial constant (44_checksum.md R88). -/
def crcPoly : Byte := 0x8C#8

/-- One iteration of the fold, on the accumulator and the rest of the data byte: `mix` is the
XOR of the two, and only its bit 0 is used (44_checksum.md R81). -/
def crcBit (p : Byte × Byte) : Byte × Byte :=
  let mix := p.1 ^^^ p.2
  let acc := p.1 >>> 1
  (if mix.getLsbD 0 then acc ^^^ crcPoly else acc, p.2 >>> 1)

/-- `n` iterations of the fold. -/
def crcBits : Nat → Byte × Byte → Byte × Byte
  | 0, p => p
  | n + 1, p => crcBits n (crcBit p)

/-- `CrcFold(acc, d)`: eight iterations, the data byte's least significant bit first
(44_checksum.md R81). -/
def crcFold (acc d : Byte) : Byte := (crcBits 8 (acc, d)).1

/-- `Crc(data)`: the left fold from 0 (44_checksum.md R82). -/
def crcOf (bytes : List Byte) : Byte := bytes.foldl crcFold 0x00#8

/-- CRCCLR: CRC is 0 (44_checksum.md R83). -/
def execCrcclr (s : State) : Result :=
  plainStep s fun
    | 0 => .next (finish { s with crc := 0x00#8 })
    | _ + 1 => .fault .noCoreStep

/-- CRCUPD: DATA is folded into CRC (44_checksum.md R84). -/
def execCrcupd (s : State) : Result :=
  plainStep s fun
    | 0 => .next (finish { s with crc := crcFold s.crc s.byteOperand })
    | _ + 1 => .fault .noCoreStep

end Sys2Proof.Machine
end

