-- ==== Sys2Proof/Machine/Init.lean ====
section
/-! DEFINITION. INIT (40_init.md). -/

namespace Sys2Proof.Machine

/-- INIT: `SerialConfigure(DATA)`, then INITD is set at completion (40_init.md R65). -/
def execInit (s : State) : Result :=
  plainStep s fun
    | 0 => .next (serialConfigure .data s)
    | 1 => .next (finish { s with initd := true })
    | _ + 2 => .fault .noCoreStep

end Sys2Proof.Machine
end

