-- ==== Sys2Proof/Machine/ResetPresence.lean ====
section
/-! DEFINITION. OWRESET (41_reset_presence.md). -/

namespace Sys2Proof.Machine

/-- The completion step of OWRESET: DATA takes the raw readback, PRESENT and ERR the presence
result (41_reset_presence.md R68, R69, R72). -/
def reportPresence (s : State) : State :=
  finish { s with
    data := s.rx
    present := presenceOf s.rx
    err := (presenceErr s.rx).code }

/-- OWRESET: reset rate, reset frame, readback, data rate, presence (41_reset_presence.md R68). -/
def execOwreset (s : State) : Result :=
  busStep s fun
    | 0 => .next (serialConfigure .reset s)
    | 1 => serialTransmit resetFrame s
    | 2 => .next (serialReceive s)
    | 3 => .next (serialConfigure .data s)
    | 4 => .next (reportPresence s)
    | _ + 5 => .fault .noCoreStep

end Sys2Proof.Machine
end

