-- ==== Sys2Proof/Machine/Dispatch.lean ====
section
/-! DEFINITION. One Core step of the command `i` (60_exceptions.md R99): one arm per command. -/

namespace Sys2Proof.Machine

def exec (i : Instr) (s : State) : Host.Outcome State Fault Refusal :=
  match i with
  | .init => Sys2Proof.Machine.execInit s
  | .owreset => Sys2Proof.Machine.execOwreset s
  | .wbit => Sys2Proof.Machine.execWbit s
  | .rbit => Sys2Proof.Machine.execRbit s
  | .wbyte => Sys2Proof.Machine.execWbyte s
  | .rbyte => Sys2Proof.Machine.execRbyte s
  | .crcclr => Sys2Proof.Machine.execCrcclr s
  | .crcupd => Sys2Proof.Machine.execCrcupd s

end Sys2Proof.Machine
end

