-- ==== Sys2Proof/Machine/Sequencer.lean ====
section
/-! DEFINITION. Who moves: the Core's turn, and the events of the schedule
(20_memory.md R48, 60_exceptions.md R97 to R99). -/

namespace Sys2Proof.Machine

/-- The Core's turn: one Core step of the command in progress, which was decoded from the byte
accepted (20_memory.md R50, 60_exceptions.md R98, R99); while idle the Core waits
(70_reset_and_hazards.md R108; DEDUCED, log 19). -/
def coreTurn (s : State) : Result :=
  match s.seq with
  | .idle => .next s
  | .run c _ =>
    match decodeByte c with
    | .ok i => exec i s
    | .error _ => illegalStep s

/-- One event of the schedule, already taken from it. -/
def takeEvent (e : Event) (s : State) : Result :=
  match e with
  | .host acc => hostAccess acc s
  | .wait => waitPoll s
  | .core => coreTurn s
  | .hardwareReset => .next (hardwareReset s)

/-- The next move: the schedule's next event, or the Core's turn when none is listed (DESIGN CHOICE, log 1). -/
def move (s : State) : Result :=
  match s.events with
  | [] => coreTurn s
  | e :: es => takeEvent e { s with events := es }

/-- `s` with command byte `v` accepted and the Core's turn next (DESIGN CHOICE, log 2). -/
def place (v : Byte) (s : State) : State :=
  { accept v s with events := .core :: s.events }

end Sys2Proof.Machine
end

