-- ==== Sys2Proof/Machine/Step.lean ====
section
/-! DEFINITION. One step of the machine, and the placing of a command for the next step. -/

namespace Sys2Proof.Machine

/-- One step: one indivisible host access, Core step or reset (20_memory.md R48). A state whose
ERR code OWC never produces stops the machine (93_implementation_defined.md K9). -/
def step (s : State) : Host.Outcome State Fault Refusal :=
  if reservedErr s.err then .fault .reservedErrCode else move s

/-- `s` with the command of a table word accepted, so that the next step is its first Core step.
OWC fetches nothing: the Host writes a command to CMD, and this stands for that accept
(20_memory.md R50, 60_exceptions.md R97; DESIGN CHOICE, log 2). -/
def State.withFetchWord (s : State) (nbits w : Nat) : State :=
  place (BitVec.ofNat 8 (w % 2 ^ nbits)) s

end Sys2Proof.Machine
end

