-- ==== Sys2Proof/Machine/Assembler.lean ====
section
/-! DEFINITION. The assembler: source text to source lines, and source lines to the host
accesses they stand for (30_encoding.md R62 to R64). Text is a list of characters. -/

namespace Sys2Proof.Machine

/-! ## Expansion -/

/-- `HW a, v`, a `HostWrite(a, v)` (30_encoding.md R62). -/
def hw (a : Nat) (v : Byte) : Event := .host (.write 8 a v)

/-- `HR a`, a `HostRead(a)` (30_encoding.md R62). -/
def hr (a : Nat) : Event := .host (.read 8 a)

/-- A command line: the operand to DATA, where there is one, then the command byte to CMD
(30_encoding.md R63). -/
def expandCommand (i : Instr) : Option Nat → List Event
  | some n => [hw 1 (BitVec.ofNat 8 n), hw 0 (encodeByte i)]
  | none => [hw 0 (encodeByte i)]

/-- The host accesses of a source line (30_encoding.md R63, R64). -/
def expandLine : SourceLine → List Event
  | .command i operand => expandCommand i operand
  | .wait => [.wait]
  | .rddata => [hr 1]
  | .rdstat => [hr 2]
  | .rdcrc => [hr 3]
  | .wbytes bs => bs.flatMap fun b => expandCommand .wbyte (some b) ++ [.wait]
  | .rbytes n => (List.replicate n (expandCommand .rbyte none ++ [.wait, hr 1])).flatten
  | .crc bs =>
    expandCommand .crcclr none ++ [.wait]
      ++ bs.flatMap (fun b => expandCommand .crcupd (some b) ++ [.wait]) ++ [hr 3]
  | .presence => expandCommand .owreset none ++ [.wait, hr 2]
  | .hw a v => [hw a (BitVec.ofNat 8 v)]
  | .hr a => [hr a]
  | .blank => []

/-- The assembler refuses an ill-formed line (30_encoding.md R62). -/
def assembleLine (l : SourceLine) : Option (List Event) :=
  if l.wellFormed then some (expandLine l) else none

/-- The host accesses of a program: its lines in order; refused if one line is. -/
def assembleProgram : List SourceLine → Option (List Event)
  | [] => some []
  | l :: ls =>
    match assembleLine l, assembleProgram ls with
    | some es, some rest => some (es ++ rest)
    | _, _ => none

/-! ## Source text (lexical details: DESIGN CHOICE, log 15) -/

/-- The text before a comment's `;` (30_encoding.md R62). -/
def stripComment : List Char → List Char
  | [] => []
  | c :: cs => if c = ';' then [] else c :: stripComment cs

/-- Spaces, tabs and commas separate the words of a line. -/
def isSeparator (c : Char) : Bool := c = ' ' || c = '\t' || c = ','

/-- The words of a line, `word` being the letters of the current word, last first. -/
def wordsFrom (word : List Char) : List Char → List (List Char)
  | [] => if word.isEmpty then [] else [word.reverse]
  | c :: cs =>
    if isSeparator c then
      if word.isEmpty then wordsFrom [] cs else word.reverse :: wordsFrom [] cs
    else wordsFrom (c :: word) cs

/-- The value of a digit in a base up to 16. -/
def digitValue (base : Nat) (c : Char) : Option Nat :=
  let n := c.toNat
  let d := if 48 ≤ n ∧ n ≤ 57 then some (n - 48)
    else if 65 ≤ n ∧ n ≤ 70 then some (n - 55)
    else if 97 ≤ n ∧ n ≤ 102 then some (n - 87)
    else none
  match d with
  | some v => if v < base then some v else none
  | none => none

/-- A non-empty run of digits read after the value `acc`. -/
def digitsFrom (base acc : Nat) : List Char → Option Nat
  | [] => some acc
  | c :: cs =>
    match digitValue base c with
    | some v => digitsFrom base (acc * base + v) cs
    | none => none

/-- A number: `0xNN` in hex, or decimal (30_encoding.md R62). How many digits it may have is the
model's choice: one or more, leading zeros among them (DESIGN CHOICE, log 15). -/
def parseNumber : List Char → Option Nat
  | [] => none
  | '0' :: 'x' :: c :: cs => digitsFrom 16 0 (c :: cs)
  | c :: cs => digitsFrom 10 0 (c :: cs)

/-- The numbers of a list of words. -/
def parseNumbers : List (List Char) → Option (List Nat)
  | [] => some []
  | w :: ws =>
    match parseNumber w, parseNumbers ws with
    | some n, some ns => some (n :: ns)
    | _, _ => none

/-- All commands, in the order of 30_encoding.md R54. -/
def allInstrs : List Instr :=
  [.init, .owreset, .wbit, .rbit, .wbyte, .rbyte, .crcclr, .crcupd]

/-- A line that begins with a pseudo-instruction or a raw access (30_encoding.md R62, R64). -/
def parsePseudo (w : List Char) (ns : List Nat) : Option SourceLine :=
  if w = ['W', 'B', 'Y', 'T', 'E', 'S'] then some (.wbytes ns)
  else if w = ['C', 'R', 'C'] then some (.crc ns)
  else
    match ns with
    | [] =>
      if w = ['W', 'A', 'I', 'T'] then some .wait
      else if w = ['R', 'D', 'D', 'A', 'T', 'A'] then some .rddata
      else if w = ['R', 'D', 'S', 'T', 'A', 'T'] then some .rdstat
      else if w = ['R', 'D', 'C', 'R', 'C'] then some .rdcrc
      else if w = ['P', 'R', 'E', 'S', 'E', 'N', 'C', 'E'] then some .presence
      else none
    | [n] =>
      if w = ['R', 'B', 'Y', 'T', 'E', 'S'] then some (.rbytes n)
      else if w = ['H', 'R'] then some (.hr n)
      else none
    | [a, v] => if w = ['H', 'W'] then some (.hw a v) else none
    | _ :: _ :: _ :: _ => none

/-- A line from its words: a mnemonic of 30_encoding.md R54 or R64 and its numbers. -/
def parseWords : List (List Char) → Option SourceLine
  | [] => some .blank
  | w :: ws =>
    match parseNumbers ws with
    | none => none
    | some ns =>
      match allInstrs.find? (fun i => i.mnemonic == w) with
      | some i =>
        match ns with
        | [] => some (.command i none)
        | [n] => some (.command i (some n))
        | _ :: _ :: _ => none
      | none => parsePseudo w ns

/-- A line of source text; none where the assembler refuses it (30_encoding.md R62). -/
def parseLine (text : List Char) : Option SourceLine :=
  match parseWords (wordsFrom [] (stripComment text)) with
  | some l => if l.wellFormed then some l else none
  | none => none

end Sys2Proof.Machine
end

