-- ==== Sys2Proof/Safety.lean ====
section
/-! DEFINITION. What claims about OWC are stated in terms of: runs, the counts of
70_reset_and_hazards.md R120, the legal serial traces, and the machine invariant. -/

namespace Sys2Proof

/-- The bus commands, which dispatch refuses while INITD is 0 (60_exceptions.md R94). -/
def Instr.isBus : Instr → Bool
  | .init => false
  | .owreset => true
  | .wbit => true
  | .rbit => true
  | .wbyte => true
  | .rbyte => true
  | .crcclr => false
  | .crcupd => false

/-- `n`, the number of serial calls of the command (70_reset_and_hazards.md R120). -/
def Instr.serialCalls : Instr → Nat
  | .init => 1
  | .owreset => 4
  | .wbit => 1
  | .rbit => 2
  | .wbyte => 8
  | .rbyte => 16
  | .crcclr => 0
  | .crcupd => 0

/-- Whether the command's next serial call, after `k` of them, is a `SerialReceive`
(41_reset_presence.md R68, 42_bit_io.md R75, 43_byte_io.md R78). -/
def Instr.receivesAfter (i : Instr) (k : Nat) : Bool :=
  match i with
  | .owreset => k == 2
  | .rbit => k == 1
  | .rbyte => k % 2 == 1 && decide (k < 16)
  | .init => false
  | .wbit => false
  | .wbyte => false
  | .crcclr => false
  | .crcupd => false

end Sys2Proof

namespace Sys2Proof.Machine

/-! ## Runs -/

/-- `n` steps, ending at the first fault or refusal. -/
def steps : Nat → State → Result
  | 0, s => .next s
  | n + 1, s =>
    match step s with
    | .next t => steps n t
    | .fault r => .fault r
    | .refused r => .refused r

/-- A run's next state seen through `g`; a fault or refusal stays. -/
def mapNext (g : State → State) : Result → Result
  | .next t => .next (g t)
  | .fault r => .fault r
  | .refused r => .refused r

/-- `s` is reached from reset, on some Line, under some schedule of host accesses, Core turns
and further resets. -/
def Reachable (s : State) : Prop :=
  ∃ n line events, steps n { State.reset with line := line, events := events } = .next s

/-! ## The serial trace -/

/-- A frame sent at the reset rate is `0xF0`; one sent at the data rate is `0xFF` or `0x00`
(30_encoding.md R59, R60). -/
def SerialOp.legal : SerialOp → Bool
  | .transmit .reset f _ => f == 0xF0#8
  | .transmit .data f _ => f == 0xFF#8 || f == 0x00#8
  | .configure _ => true
  | .receive _ => true
  | .cutByReset => true

/-- Every receive is the next serial operation after a transmit that answered `OK`
(20_memory.md R42, R43). -/
def ReceivesPaired (trace : List SerialOp) : Prop :=
  ∀ pre a post, trace = pre ++ .receive a :: post → ∃ pre' r f, pre = pre' ++ [.transmit r f .ok]

/-! ## The invariant -/

/-- SEQ names a Core step of the command in CMD: an illegal byte has only its first, and a bus
command that has gone past dispatch found INITD set (10_state.md R15, 60_exceptions.md R98,
R99). -/
def SeqInRange (s : State) : Prop :=
  match s.seq with
  | .idle => True
  | .run c k =>
    c = s.cmd ∧
      match decodeByte c with
      | .ok i => k ≤ i.serialCalls ∧ (i.isBus = true → k ≠ 0 → s.initd = true)
      | .error _ => k = 0

/-- The reset rate is active exactly between the two `SerialConfigure` calls of an OWRESET
(10_state.md R26, R30; 41_reset_presence.md R68). -/
def BaudFollowsSeq (s : State) : Prop :=
  s.baudSel = .reset ↔ ∃ k, s.seq = .run (encodeByte .owreset) k ∧ 1 ≤ k ∧ k ≤ 3

/-- BAUD_SEL names the rate the peripheral was last configured to, but for the time before the
first INIT's `SerialConfigure` (10_state.md R26, 70_reset_and_hazards.md R118). -/
def PeriphAgrees (s : State) : Prop :=
  s.initd = true ∨ s.seq = .run (encodeByte .init) 1 → s.periph = some s.baudSel

/-- A result code other than NONE stands only while idle and tells of the command in CMD how it
ended (60_exceptions.md R90, R97). -/
def ErrTells (s : State) : Prop :=
  (s.busy = true → s.err = ErrCode.none.code) ∧
  (s.err = ErrCode.noDevice.code → decodeByte s.cmd = .ok .owreset ∧ s.present = false) ∧
  (s.err = ErrCode.timeout.code →
    s.initd = true ∧ ∃ i, decodeByte s.cmd = .ok i ∧ i.isBus = true) ∧
  (s.err = ErrCode.illegalCmd.code → ∃ e, decodeByte s.cmd = .error e) ∧
  (s.err = ErrCode.notInit.code →
    s.initd = false ∧ ∃ i, decodeByte s.cmd = .ok i ∧ i.isBus = true)

/-- A pending abort belongs to a serial call of the command in progress (60_exceptions.md
R101). -/
def TimeoutPending (s : State) : Prop :=
  s.timedOut = true → ∃ c k, s.seq = .run c (k + 1)

/-- Where the next serial call is a receive and no abort is pending, the trace ends in a
transmit that answered `OK` (20_memory.md R42). -/
def ReceiveReady (s : State) : Prop :=
  ∀ c k i, s.seq = .run c k → decodeByte c = .ok i → i.receivesAfter k = true →
    s.timedOut = false → ∃ pre r f, s.trace = pre ++ [.transmit r f .ok]

/-- What holds of OWC in every state a run from reset reaches. -/
structure OwcInv (s : State) : Prop where
  /-- ERR is 0 to 4 (10_state.md R21). -/
  errProduced : reservedErr s.err = false
  /-- (10_state.md R15) -/
  seqInRange : SeqInRange s
  /-- The baud invariant (10_state.md R27). -/
  baudFollowsSeq : BaudFollowsSeq s
  /-- (10_state.md R26) -/
  periphAgrees : PeriphAgrees s
  /-- (60_exceptions.md R90) -/
  errTells : ErrTells s
  /-- PRESENT is set only by an OWRESET that ran after INIT (10_state.md R20, R23). -/
  presentAfterInit : s.present = true → s.initd = true
  /-- (60_exceptions.md R101) -/
  timeoutPending : TimeoutPending s
  /-- (30_encoding.md R60) -/
  traceLegal : ∀ op ∈ s.trace, op.legal = true
  /-- (20_memory.md R43) -/
  receivesPaired : ReceivesPaired s.trace
  /-- (20_memory.md R42) -/
  receiveReady : ReceiveReady s

/-! ## Counts -/

/-- The serial operations of a trace by kind: configures, transmits, receives
(70_reset_and_hazards.md R120). -/
def serialCounts (trace : List SerialOp) : Nat × Nat × Nat :=
  (trace.countP fun | .configure _ => true | .transmit _ _ _ => false | .receive _ => false | .cutByReset => false,
   trace.countP fun | .configure _ => false | .transmit _ _ _ => true | .receive _ => false | .cutByReset => false,
   trace.countP fun | .configure _ => false | .transmit _ _ _ => false | .receive _ => true | .cutByReset => false)

/-- The table of serial operations each command performs (70_reset_and_hazards.md R120). -/
def countsOf : Instr → Nat × Nat × Nat
  | .init => (1, 0, 0)
  | .owreset => (2, 1, 1)
  | .wbit => (0, 1, 0)
  | .rbit => (0, 1, 1)
  | .wbyte => (0, 8, 0)
  | .rbyte => (0, 8, 8)
  | .crcclr => (0, 0, 0)
  | .crcupd => (0, 0, 0)

end Sys2Proof.Machine
end

