-- ==== Sys2Proof/Certificates/Slice0/Obligations.lean ====
section
/-! DEFINITION. The statements about OWC for the provers. -/

namespace Sys2Proof.Machine

/-! ## The checksum as a polynomial -/

/-- A byte as a polynomial over GF(2) in the reflected representation: bit `7 - k` is the
coefficient of `x^k` (44_checksum.md R88). -/
noncomputable def reflectedPoly (b : Byte) : Polynomial (ZMod 2) :=
  ∑ k ∈ Finset.range 8, if b.getLsbD (7 - k) then Polynomial.X ^ k else 0

/-- `x⁸+x⁵+x⁴+1` (44_checksum.md R88). -/
noncomputable def dallasPoly : Polynomial (ZMod 2) :=
  Polynomial.X ^ 8 + Polynomial.X ^ 5 + Polynomial.X ^ 4 + 1

/-- The bytes of a message, first byte most significant, as one polynomial. -/
noncomputable def messagePoly (bytes : List Byte) : Polynomial (ZMod 2) :=
  bytes.foldl (fun m b => m * Polynomial.X ^ 8 + reflectedPoly b) 0

end Sys2Proof.Machine

open Sys2Proof Sys2Proof.Machine

/-! ## Reset -/

/-- Power-up and the reset event set every register to its reset value; the event performs no serial
operation and leaves OWC idle and waiting (70_reset_and_hazards.md R108). The clauses that R108 does
not state are the model's choice: `cutByReset`, which is no serial operation (log 7), the Line and its
draws left as they are (log 13), the record of reads kept (log 5). -/
def Obligations.ResetEventRestoresResetState : Prop :=
  (State.reset.cmd = 0x00#8 ∧ State.reset.data = 0x00#8 ∧ State.reset.statusByte = 0x00#8 ∧
    State.reset.crc = 0x00#8 ∧ State.reset.baudSel = .data ∧ State.reset.seq = .idle ∧
    State.reset.shift = 0x00#8 ∧ State.reset.bitcnt = 0) ∧
  ∀ (s : State) (es : List Event), reservedErr s.err = false → s.events = .hardwareReset :: es →
    ∃ t, step s = .next t ∧
      t.cmd = 0x00#8 ∧ t.data = 0x00#8 ∧ t.statusByte = 0x00#8 ∧ t.crc = 0x00#8 ∧
      t.baudSel = .data ∧ t.seq = .idle ∧ t.shift = 0x00#8 ∧ t.bitcnt = 0 ∧
      t.present = false ∧ t.err = 0#3 ∧ t.initd = false ∧ t.hosterr = false ∧
      t.trace.filter (· ≠ .cutByReset) = s.trace.filter (· ≠ .cutByReset) ∧
      t.line = s.line ∧ t.draws = s.draws ∧ t.events = es ∧ t.reads = s.reads ∧
      ∀ n, steps n { t with events := [] } = .next { t with events := [] }

/-! ## Encoding -/

/-- Decoding an encoded command gives it back and takes its one byte (30_encoding.md R52, R54). -/
def Obligations.DecodeInvertsEncode : Prop :=
  ∀ (i : Instr) (rest : List Byte), decode (encode i ++ rest) = .ok (i, rest)

/-- The legal command bytes are exactly these eight, matched on all eight bits (30_encoding.md R54),
and a table word decodes as its byte does. -/
def Obligations.CommandBytesAreTheTable : Prop :=
  encode .init = [0x01#8] ∧ encode .owreset = [0x02#8] ∧ encode .wbit = [0x03#8] ∧
  encode .rbit = [0x04#8] ∧ encode .wbyte = [0x05#8] ∧ encode .rbyte = [0x06#8] ∧
  encode .crcclr = [0x07#8] ∧ encode .crcupd = [0x08#8] ∧
  (∀ (b : Byte) (i : Instr), decodeByte b = .ok i ↔ [b] = encode i) ∧
  decodeTableWord 8 0b00000001 = some .init ∧ decodeTableWord 8 0b00000110 = some .rbyte ∧
  decodeTableWord 8 0b00001000 = some .crcupd ∧ decodeTableWord 8 0b00010001 = none

/-- Each of the 256 byte values is exactly one command or is illegal (30_encoding.md R56). -/
def Obligations.EveryByteIsACommandOrIllegal : Prop :=
  ∀ b : Byte,
    (1 ≤ b.toNat ∧ b.toNat ≤ 8 ∧ ∃ i, decodeByte b = .ok i ∧ b = encodeByte i) ∨
    ((b.toNat = 0 ∨ 9 ≤ b.toNat) ∧ ∃ e, decodeByte b = .error e)

/-! ## STATUS and the host port -/

/-- The STATUS byte's layout (10_state.md R18), with BUSY and BAUD as views of SEQ and BAUD_SEL
(R19, R22). -/
def Obligations.StatusLayout : Prop :=
  ∀ s : State,
    (s.statusByte.getLsbD 0 = true ↔ s.seq ≠ .idle) ∧
    s.statusByte.getLsbD 1 = s.present ∧
    s.statusByte.extractLsb' 2 3 = s.err ∧
    (s.statusByte.getLsbD 5 = true ↔ s.baudSel = .reset) ∧
    s.statusByte.getLsbD 6 = s.initd ∧
    s.statusByte.getLsbD 7 = s.hosterr

/-- A host read gives the register's current value and changes nothing (20_memory.md R33, R35);
what the Host has read is the model's own record. -/
def Obligations.HostReadReturnsTheRegister : Prop :=
  ∀ (s : State) (es : List Event), reservedErr s.err = false →
    (s.events = hr 0 :: es → step s = .next { s with events := es, reads := s.reads ++ [(0, s.cmd)] }) ∧
    (s.events = hr 1 :: es → step s = .next { s with events := es, reads := s.reads ++ [(1, s.data)] }) ∧
    (s.events = hr 2 :: es →
      step s = .next { s with events := es, reads := s.reads ++ [(2, s.statusByte)] }) ∧
    (s.events = hr 3 :: es → step s = .next { s with events := es, reads := s.reads ++ [(3, s.crc)] })

/-- Accept: the write of CMD while idle, and no write of CMD while busy (60_exceptions.md R97).
`timedOut` is the model's own field. -/
def Obligations.AcceptStartsCommand : Prop :=
  ∀ (s : State) (v : Byte) (es : List Event), reservedErr s.err = false → s.events = hw 0 v :: es →
    (s.seq = .idle → step s = .next { s with
      events := es, cmd := v, seq := .run v 0, err := 0#3, timedOut := false
      present := if v = 0x01#8 then false else s.present
      hosterr := if v = 0x01#8 then false else s.hosterr }) ∧
    (s.seq ≠ .idle → ∃ t, step s = .next t ∧ t.cmd = s.cmd ∧ t.seq = s.seq ∧ t.err = s.err)

/-- Host writes (20_memory.md R36, with the effects of the table of R33): CMD and DATA while idle and
while busy; nothing for STATUS and CRC; and only the write of CMD while idle starts Core activity.
What `accept` does is said by `AcceptStartsCommand`. -/
def Obligations.HostWriteEffects : Prop :=
  ∀ (s : State) (es : List Event), reservedErr s.err = false →
    (∀ v, s.events = hw 0 v :: es → s.seq = .idle →
      step s = .next (accept v { s with events := es })) ∧
    (∀ v, s.events = hw 1 v :: es → s.seq = .idle → step s = .next { s with events := es, data := v }) ∧
    (∀ v, s.events = hw 0 v :: es ∨ s.events = hw 1 v :: es → s.seq ≠ .idle →
      step s = .next { s with events := es, hosterr := true }) ∧
    (∀ v, s.events = hw 2 v :: es → step s = .next { s with events := es }) ∧
    (∀ v, s.events = hw 3 v :: es → step s = .next { s with events := es }) ∧
    (∀ acc t, s.events = .host acc :: es → s.seq = .idle → step s = .next t → t.seq ≠ .idle →
      ∃ v, acc = .write 8 0 v)

/-- A write of CMD or DATA while busy sets HOSTERR and changes nothing else; it is not queued, and
the Core's next step does what it would have done (20_memory.md R37). -/
def Obligations.BusyHostWriteOnlySetsHosterr : Prop :=
  ∀ (s : State) (v : Byte) (es : List Event), reservedErr s.err = false → s.seq ≠ .idle →
    (s.events = hw 0 v :: es ∨ s.events = hw 1 v :: es →
      step s = .next { s with events := es, hosterr := true }) ∧
    ∀ (h : Bool) (rs : List (Nat × Byte)),
      coreTurn { s with hosterr := h, reads := rs, events := es } =
        mapNext (fun t => { t with hosterr := h, reads := rs, events := es }) (coreTurn s)

/-- An access of another width than 8 bits, or of an address outside 0..3, is refused
(93_implementation_defined.md K10, K11). -/
def Obligations.OtherHostAccessesAreRefused : Prop :=
  ∀ (s : State) (bits a : Nat) (v : Byte) (es : List Event), reservedErr s.err = false →
    (s.events = .host (.write bits a v) :: es ∨ s.events = .host (.read bits a) :: es) →
    (bits ≠ 8 → step s = .refused .hostAccessWidth) ∧
    (bits = 8 → 4 ≤ a → step s = .refused .hostAccessAddress)

/-! ## Dispatch and errors -/

/-- An illegal command byte ends in one Core step with ILLEGAL_CMD, whatever INITD is
(60_exceptions.md R93, R98). The step comes when the schedule gives the Core a turn or lists nothing
(DESIGN CHOICE, log 1). -/
def Obligations.IllegalCommandEndsAtDispatch : Prop :=
  ∀ (s : State) (c : Byte), reservedErr s.err = false → s.seq = .run c 0 →
    (c.toNat = 0 ∨ 9 ≤ c.toNat) →
    (s.events = [] → step s = .next { s with err := 3#3, seq := .idle, timedOut := false }) ∧
    ∀ es, s.events = .core :: es →
      step s = .next { s with events := es, err := 3#3, seq := .idle, timedOut := false }

/-- A write of an illegal byte to CMD while idle, run to its end, changes only CMD and ERR
(30_encoding.md R55). -/
def Obligations.IllegalCommandChangesOnlyCmdAndErr : Prop :=
  ∀ (s : State) (c : Byte), OwcInv s → s.seq = .idle → s.events = [hw 0 c] →
    (c.toNat = 0 ∨ 9 ≤ c.toNat) →
    steps 2 s = .next { s with events := [], cmd := c, err := 3#3 }

/-- A bus command is refused at dispatch while INITD is 0, and the other commands never are
(60_exceptions.md R94). -/
def Obligations.BusCommandNeedsInit : Prop :=
  ∀ (i : Instr) (s : State) (c : Byte), s.seq = .run c 0 →
    (i = .owreset ∨ i = .wbit ∨ i = .rbit ∨ i = .wbyte ∨ i = .rbyte → s.initd = false →
      exec i s = .next { s with err := 4#3, seq := .idle, timedOut := false }) ∧
    (i = .init ∨ i = .crcclr ∨ i = .crcupd → ∃ t, exec i s = .next t ∧ t.err = s.err)

/-- The abort step: the data rate is restored with a `SerialConfigure` if the reset rate is
active, OWRESET reports no presence, ERR is TIMEOUT, and nothing else changes
(60_exceptions.md R101). -/
def Obligations.TimeoutAbortsTheCommand : Prop :=
  ∀ (i : Instr) (s : State) (c : Byte) (k : Nat),
    (i = .owreset ∨ i = .wbit ∨ i = .rbit ∨ i = .wbyte ∨ i = .rbyte) →
    s.seq = .run c (k + 1) → s.timedOut = true →
    (s.baudSel = .data → exec i s = .next { s with
      present := if s.cmd = 0x02#8 then false else s.present
      err := 2#3, seq := .idle, timedOut := false }) ∧
    (s.baudSel = .reset → exec i s = .next { s with
      baudSel := .data, periph := some .data, line := s.line.configure
      trace := s.trace ++ [.configure .data]
      present := if s.cmd = 0x02#8 then false else s.present
      err := 2#3, seq := .idle, timedOut := false })

/-- A command that ends with TIMEOUT leaves DATA, CRC, INITD and HOSTERR as they were at accept,
and the data rate active (60_exceptions.md R101). -/
def Obligations.AbortIsPrecise : Prop :=
  ∀ (s t : State) (c : Byte) (n : Nat), OwcInv s → s.events = [] → s.seq = .run c 0 →
    steps n s = .next t → t.err = 2#3 →
    t.seq = .idle ∧ t.baudSel = .data ∧ t.cmd = s.cmd ∧ t.data = s.data ∧ t.crc = s.crc ∧
    t.initd = s.initd ∧ t.hosterr = s.hosterr ∧ (c ≠ 0x02#8 → t.present = s.present) ∧
    (c = 0x02#8 → t.present = false)

/-! ## One Core step of each command -/

/-- When SEQ runs a byte that decodes to a command, the Core's turn is that command's meaning; it
comes when the schedule gives it or lists nothing (60_exceptions.md R98, R99; DESIGN CHOICE, log 1). -/
def Obligations.StepRunsTheDecodedCommand : Prop :=
  ∀ (s : State) (c : Byte) (k : Nat) (i : Instr), reservedErr s.err = false →
    s.seq = .run c k → decode [c] = .ok (i, []) →
    (s.events = [] → step s = exec i s) ∧
    ∀ es, s.events = .core :: es → step s = exec i { s with events := es }

/-- The two Core steps of INIT (40_init.md R65). -/
def Obligations.InitCoreSteps : Prop :=
  ∀ (s : State) (c : Byte),
    (s.seq = .run c 0 → exec .init s = .next { s with
      baudSel := .data, periph := some .data, line := s.line.configure, timedOut := false
      trace := s.trace ++ [.configure .data], seq := .run c 1 }) ∧
    (s.seq = .run c 1 → exec .init s = .next { s with initd := true, seq := .idle, timedOut := false })

/-- The five Core steps of OWRESET, for every answer of the Line (41_reset_presence.md R68). -/
def Obligations.OwresetCoreSteps : Prop :=
  ∀ (s : State) (c : Byte),
    (s.seq = .run c 0 → s.initd = true → exec .owreset s = .next { s with
      baudSel := .reset, periph := some .reset, line := s.line.configure, timedOut := false
      trace := s.trace ++ [.configure .reset], seq := .run c 1 }) ∧
    (s.timedOut = false →
      (∀ a l d, s.seq = .run c 1 → s.line.transmit 0xF0#8 s.draws = some (a, l, d) →
        exec .owreset s = .next { s with
          line := l, draws := d, timedOut := a == .timeout
          trace := s.trace ++ [.transmit s.baudSel 0xF0#8 a], seq := .run c 2 }) ∧
      (∀ f l d, s.seq = .run c 2 → s.line.receive s.draws = (.frame f, l, d) →
        exec .owreset s = .next { s with
          line := l, draws := d, rx := f
          trace := s.trace ++ [.receive (.frame f)], seq := .run c 3 }) ∧
      (∀ l d, s.seq = .run c 2 → s.line.receive s.draws = (.timeout, l, d) →
        exec .owreset s = .next { s with
          line := l, draws := d, timedOut := true
          trace := s.trace ++ [.receive .timeout], seq := .run c 3 }) ∧
      (s.seq = .run c 3 → exec .owreset s = .next { s with
        baudSel := .data, periph := some .data, line := s.line.configure
        trace := s.trace ++ [.configure .data], seq := .run c 4 }) ∧
      (s.seq = .run c 4 → s.rx ≠ 0xF0#8 → exec .owreset s = .next { s with
        data := s.rx, present := true, err := 0#3, seq := .idle }) ∧
      (s.seq = .run c 4 → s.rx = 0xF0#8 → exec .owreset s = .next { s with
        data := s.rx, present := false, err := 1#3, seq := .idle }))

/-- A reset frame on the `BITSTORE` double is refused: it is defined only for runs without
OWRESET (20_memory.md R46, 93_implementation_defined.md K15). -/
def Obligations.ResetFrameOnBitStoreIsRefused : Prop :=
  ∀ (s : State) (c : Byte) (q : List Bool) (p : Bool), s.seq = .run c 1 → s.timedOut = false →
    s.line = .bitStore q p → exec .owreset s = .refused .bitStoreResetFrame

/-- The two Core steps of WBIT, for every answer of the Line (42_bit_io.md R74). -/
def Obligations.WbitCoreSteps : Prop :=
  ∀ (s : State) (c : Byte),
    (s.seq = .run c 0 → s.initd = true → ∃ a l d,
      s.line.transmit (if s.data.getLsbD 0 then 0xFF#8 else 0x00#8) s.draws = some (a, l, d) ∧
      exec .wbit s = .next { s with
        line := l, draws := d, timedOut := a == .timeout
        trace := s.trace ++ [.transmit s.baudSel (if s.data.getLsbD 0 then 0xFF#8 else 0x00#8) a]
        seq := .run c 1 }) ∧
    (s.seq = .run c 1 → s.timedOut = false → exec .wbit s = .next { s with seq := .idle })

/-- The three Core steps of RBIT, for every answer of the Line (42_bit_io.md R75). -/
def Obligations.RbitCoreSteps : Prop :=
  ∀ (s : State) (c : Byte),
    (s.seq = .run c 0 → s.initd = true → ∃ a l d,
      s.line.transmit 0xFF#8 s.draws = some (a, l, d) ∧
      exec .rbit s = .next { s with
        line := l, draws := d, timedOut := a == .timeout
        trace := s.trace ++ [.transmit s.baudSel 0xFF#8 a], seq := .run c 1 }) ∧
    (s.timedOut = false →
      (∀ f l d, s.seq = .run c 1 → s.line.receive s.draws = (.frame f, l, d) →
        exec .rbit s = .next { s with
          line := l, draws := d, rx := f
          trace := s.trace ++ [.receive (.frame f)], seq := .run c 2 }) ∧
      (∀ l d, s.seq = .run c 1 → s.line.receive s.draws = (.timeout, l, d) →
        exec .rbit s = .next { s with
          line := l, draws := d, timedOut := true
          trace := s.trace ++ [.receive .timeout], seq := .run c 2 }) ∧
      (s.seq = .run c 2 → exec .rbit s = .next { s with
        data := if s.rx.getLsbD 0 then 0x01#8 else 0x00#8, seq := .idle }))

/-- The nine Core steps of WBYTE, for every answer of the Line (43_byte_io.md R77). -/
def Obligations.WbyteCoreSteps : Prop :=
  ∀ (s : State) (c : Byte) (k : Nat) (v : Byte), s.seq = .run c k →
    (k = 0 → s.initd = true ∧ v = s.data) → (k ≠ 0 → s.timedOut = false ∧ v = s.shift >>> 1) →
    (k < 8 → ∃ a l d,
      s.line.transmit (if v.getLsbD 0 then 0xFF#8 else 0x00#8) s.draws = some (a, l, d) ∧
      exec .wbyte s = .next { s with
        shift := v, bitcnt := Fin.ofNat 9 k, line := l, draws := d, timedOut := a == .timeout
        trace := s.trace ++ [.transmit s.baudSel (if v.getLsbD 0 then 0xFF#8 else 0x00#8) a]
        seq := .run c (k + 1) }) ∧
    (k = 8 → exec .wbyte s = .next { s with shift := v, bitcnt := 8, seq := .idle })

/-- The seventeen Core steps of RBYTE, for every answer of the Line (43_byte_io.md R78). -/
def Obligations.RbyteCoreSteps : Prop :=
  ∀ (s : State) (c : Byte) (i : Nat) (v : Byte),
    (i = 0 → v = 0x00#8) →
    (i ≠ 0 → v = (s.shift >>> 1) ||| (if s.rx.getLsbD 0 then 0x80#8 else 0x00#8)) →
    (s.seq = .run c (2 * i) → i < 8 → (i = 0 → s.initd = true) → (i ≠ 0 → s.timedOut = false) →
      ∃ a l d, s.line.transmit 0xFF#8 s.draws = some (a, l, d) ∧
        exec .rbyte s = .next { s with
          shift := v, bitcnt := Fin.ofNat 9 i, line := l, draws := d, timedOut := a == .timeout
          trace := s.trace ++ [.transmit s.baudSel 0xFF#8 a], seq := .run c (2 * i + 1) }) ∧
    (s.timedOut = false →
      (∀ f l d, s.seq = .run c (2 * i + 1) → i < 8 → s.line.receive s.draws = (.frame f, l, d) →
        exec .rbyte s = .next { s with
          line := l, draws := d, rx := f
          trace := s.trace ++ [.receive (.frame f)], seq := .run c (2 * i + 2) }) ∧
      (∀ l d, s.seq = .run c (2 * i + 1) → i < 8 → s.line.receive s.draws = (.timeout, l, d) →
        exec .rbyte s = .next { s with
          line := l, draws := d, timedOut := true
          trace := s.trace ++ [.receive .timeout], seq := .run c (2 * i + 2) }) ∧
      (s.seq = .run c 16 → i = 8 → exec .rbyte s = .next { s with
        shift := v, bitcnt := 8, data := v, seq := .idle }))

/-- CRCCLR is one Core step, and what it leaves of an idle OWC, with or without INIT
(44_checksum.md R83). -/
def Obligations.CrcclrClearsCrc : Prop :=
  (∀ (s : State) (c : Byte), s.seq = .run c 0 →
    exec .crcclr s = .next { s with crc := 0x00#8, seq := .idle, timedOut := false }) ∧
  ∀ s : State, reservedErr s.err = false → s.seq = .idle → s.events = [hw 0 0x07#8] →
    (∃ u, steps 1 s = .next u ∧ u.busy = true ∧ u.err = 0#3) ∧
    steps 2 s = .next { s with
      events := [], cmd := 0x07#8, err := 0#3, crc := 0x00#8, timedOut := false }

/-- CRCUPD is one Core step, `CrcFold(CRC, DATA)`, and what it leaves of an idle OWC, with or without
INIT; with the corner cases of 44_checksum.md R84. -/
def Obligations.CrcupdFoldsData : Prop :=
  (∀ (s : State) (c : Byte), s.seq = .run c 0 →
    exec .crcupd s = .next { s with crc := crcFold s.crc s.data, seq := .idle, timedOut := false }) ∧
  (∀ s : State, reservedErr s.err = false → s.seq = .idle → s.events = [hw 0 0x08#8] →
    (∃ u, steps 1 s = .next u ∧ u.busy = true ∧ u.err = 0#3) ∧
    steps 2 s = .next { s with
      events := [], cmd := 0x08#8, err := 0#3, crc := crcFold s.crc s.data, timedOut := false }) ∧
  (∀ c : Byte, crcFold c c = 0x00#8) ∧
  crcFold 0x00#8 0x01#8 = 0x5E#8 ∧ crcFold 0x00#8 0x80#8 = 0x8C#8 ∧ crcFold 0x00#8 0x10#8 = 0x9D#8

/-! ## Whole commands -/

/-- INIT from any idle state, a second INIT included: PRESENT and HOSTERR are cleared at accept, the
data rate is configured in Core step 1, INITD is set at completion, STATUS is `0x40`, the
peripheral's rate and BAUD_SEL agree, and DATA and CRC keep their values (40_init.md R65 to R67). -/
def Obligations.InitBringsUpTheTransport : Prop :=
  ∀ s : State, reservedErr s.err = false → s.seq = .idle → s.events = [hw 0 0x01#8] →
    (∃ u, steps 1 s = .next u ∧ u.busy = true ∧ u.present = false ∧ u.hosterr = false ∧
      u.err = 0#3 ∧ u.initd = s.initd) ∧
    (∃ u, steps 2 s = .next u ∧ u.busy = true ∧ u.baudSel = .data ∧ u.initd = s.initd) ∧
    ∃ t, steps 3 s = .next t ∧ t.statusByte = 0x40#8 ∧ t = { s with
      events := [], cmd := 0x01#8, present := false, err := 0#3, initd := true, hosterr := false
      baudSel := .data, periph := some .data, line := s.line.configure, timedOut := false
      trace := s.trace ++ [.configure .data] }

/-- OWRESET with a readback: presence is reported exactly when the readback differs from `0xF0`,
and the trace is reset rate, reset frame, readback, data rate (41_reset_presence.md R69). -/
def Obligations.OwresetReportsPresence : Prop :=
  ∀ (s : State) (r : Byte) (tx : List TxAnswer) (rx : List RxAnswer),
    OwcInv s → s.seq = .idle → s.initd = true → s.events = [hw 0 0x02#8] →
    s.line = .listed (.ok :: tx) (.frame r :: rx) →
    steps 6 s = .next { s with
      events := [], cmd := 0x02#8, data := r, rx := r, line := .listed tx rx
      present := r != 0xF0#8, err := if r = 0xF0#8 then 1#3 else 0#3
      trace := s.trace ++ [.configure .reset, .transmit .reset 0xF0#8 .ok, .receive (.frame r),
        .configure .data] }

/-- OWRESET whose transmit or receive times out (41_reset_presence.md R68, 60_exceptions.md R101;
95_test_vectors.md V9, V10). -/
def Obligations.OwresetTimeouts : Prop :=
  ∀ (s : State) (tx : List TxAnswer) (rx : List RxAnswer),
    OwcInv s → s.seq = .idle → s.initd = true → s.events = [hw 0 0x02#8] →
    (s.line = .listed (.timeout :: tx) rx → steps 4 s = .next { s with
      events := [], cmd := 0x02#8, line := .listed tx rx, present := false, err := 2#3
      trace := s.trace ++ [.configure .reset, .transmit .reset 0xF0#8 .timeout, .configure .data] }) ∧
    (s.line = .listed (.ok :: tx) (.timeout :: rx) → steps 5 s = .next { s with
      events := [], cmd := 0x02#8, line := .listed tx rx, present := false, err := 2#3
      trace := s.trace ++ [.configure .reset, .transmit .reset 0xF0#8 .ok, .receive .timeout,
        .configure .data] })

/-- On every end of OWRESET the data rate has been configured last (41_reset_presence.md R70). -/
def Obligations.OwresetEndsAtDataRate : Prop :=
  ∀ s : State, OwcInv s → s.events = [] → s.seq = .run 0x02#8 0 → s.initd = true →
    (∀ q p, s.line ≠ .bitStore q p) →
    ∃ n t, n ≤ 5 ∧ steps n s = .next t ∧ t.seq = .idle ∧ t.baudSel = .data ∧
      t.periph = some .data ∧ (t.trace.getLast? = some (.configure .data)) ∧
      (t.err = 0#3 ∨ t.err = 1#3 ∨ t.err = 2#3) ∧ (t.present = true ↔ t.err = 0#3)

/-- WBYTE sends eight frames, bit 0 first, at the data rate, and changes no register but CMD, ERR
and the hidden SHIFT and BITCNT (43_byte_io.md R77). -/
def Obligations.WbyteSendsBitsLsbFirst : Prop :=
  ∀ (s : State) (tx : List TxAnswer) (rx : List RxAnswer),
    OwcInv s → s.seq = .idle → s.initd = true → s.events = [hw 0 0x05#8] →
    s.line = .listed (List.replicate 8 .ok ++ tx) rx →
    steps 10 s = .next { s with
      events := [], cmd := 0x05#8, err := 0#3, shift := 0x00#8, bitcnt := 8, line := .listed tx rx
      trace := s.trace ++ (List.range 8).map fun i =>
        .transmit .data (if s.data.getLsbD i then 0xFF#8 else 0x00#8) .ok }

/-- WBYTE whose transmit of bit `j` times out: the frames of bits 0 to `j - 1` were sent, that of
bit `j` was tried, no later one is (43_byte_io.md R77). -/
def Obligations.WbyteStopsAtTheTimeout : Prop :=
  ∀ (s : State) (j : Nat) (tx : List TxAnswer) (rx : List RxAnswer),
    OwcInv s → s.seq = .idle → s.initd = true → s.events = [hw 0 0x05#8] → j < 8 →
    s.line = .listed (List.replicate j .ok ++ .timeout :: tx) rx →
    steps (j + 3) s = .next { s with
      events := [], cmd := 0x05#8, err := 2#3, shift := s.data >>> j, bitcnt := Fin.ofNat 9 j
      line := .listed tx rx
      trace := s.trace ++ (List.range (j + 1)).map fun i =>
        .transmit .data (if s.data.getLsbD i then 0xFF#8 else 0x00#8) (if i = j then .timeout else .ok) }

/-- RBYTE assembles bit 0 of each readback, the first one into bit 0 (43_byte_io.md R79). -/
def Obligations.RbyteAssemblesLsbFirst : Prop :=
  ∀ (s : State) (rs : List Byte) (tx : List TxAnswer) (rx : List RxAnswer),
    OwcInv s → s.seq = .idle → s.initd = true → s.events = [hw 0 0x06#8] → rs.length = 8 →
    s.line = .listed (List.replicate 8 .ok ++ tx) (rs.map .frame ++ rx) →
    ∃ t, steps 18 s = .next t ∧
      (∀ i, i < 8 → t.data.getLsbD i = (rs.getD i 0x00#8).getLsbD 0) ∧
      t = { s with
        events := [], cmd := 0x06#8, err := 0#3, data := t.data, shift := t.data, bitcnt := 8
        rx := rs.getD 7 0x00#8, line := .listed tx rx
        trace := s.trace ++ rs.flatMap fun r => [.transmit .data 0xFF#8 .ok, .receive (.frame r)] }

/-- The `ECHO` double: OWRESET reports no device and RBYTE gives `0xFF` (41_reset_presence.md R68,
43_byte_io.md R78; 95_test_vectors.md S5, V35). -/
def Obligations.EchoLineIsNoDevice : Prop :=
  ∀ (s : State) (x : Byte), OwcInv s → s.seq = .idle → s.initd = true → s.line = .echo x →
    (s.events = [hw 0 0x02#8] → ∃ t, steps 6 s = .next t ∧ t.seq = .idle ∧ t.data = 0xF0#8 ∧
      t.present = false ∧ t.err = 1#3 ∧ t.baudSel = .data ∧ t.crc = s.crc) ∧
    (s.events = [hw 0 0x06#8] → ∃ t, steps 18 s = .next t ∧ t.seq = .idle ∧ t.data = 0xFF#8 ∧
      t.err = 0#3 ∧ t.present = s.present ∧ t.crc = s.crc)

/-! ## The checksum -/

/-- The table form of the fold (44_checksum.md R86). -/
def Obligations.CrcFoldIsOneLookup : Prop :=
  ∀ acc d : Byte, crcFold acc d = crcFold (acc ^^^ d) 0x00#8

/-- The residue property: folding a block and its trailing byte gives 0 exactly when the trailing
byte is the block's checksum, because a fold is a bijection of the byte folded
(44_checksum.md R87). -/
def Obligations.CrcResidueIsZero : Prop :=
  (∀ c : Byte, Function.Bijective (crcFold c)) ∧
  ∀ (data : List Byte) (x : Byte), crcOf (data ++ [x]) = 0x00#8 ↔ x = crcOf data

/-- The checksum is linear over GF(2) for sequences of equal length (44_checksum.md R89). -/
def Obligations.CrcIsLinear : Prop :=
  (∀ acc acc' d d' : Byte,
    crcFold (acc ^^^ acc') (d ^^^ d') = crcFold acc d ^^^ crcFold acc' d') ∧
  ∀ a b : List Byte, a.length = b.length →
    crcOf (List.zipWith (· ^^^ ·) a b) = crcOf a ^^^ crcOf b

/-- The checksum of a message is the remainder of the message times `x⁸` on division by the
Dallas polynomial: `0x8C` is that polynomial in reflected form, and the polynomial divides the
difference (44_checksum.md R82, R88). -/
def Obligations.CrcIsPolynomialRemainder : Prop :=
  dallasPoly = Polynomial.X ^ 8 + reflectedPoly 0x8C#8 ∧
  ∀ data : List Byte,
    dallasPoly ∣ messagePoly data * Polynomial.X ^ 8 + reflectedPoly (crcOf data)

/-- The pseudo-instruction CRC leaves the checksum of its bytes in CRC and reads it, from any idle
state, with or without INIT (44_checksum.md R85, 30_encoding.md R64). -/
def Obligations.CrcProgramComputesChecksum : Prop :=
  ∀ (s : State) (bs : List Nat) (es : List Event), OwcInv s → s.seq = .idle →
    (∀ b ∈ bs, b ≤ 255) → assembleLine (.crc bs) = some es → s.events = es →
    ∃ n t, steps n s = .next t ∧ t.seq = .idle ∧ t.events = [] ∧
      t.crc = crcOf (bs.map (BitVec.ofNat 8)) ∧ t.reads.getLast? = some (3, t.crc) ∧
      t.trace = s.trace ∧ t.initd = s.initd ∧ t.present = s.present ∧ t.hosterr = s.hosterr

/-! ## Round trip -/

/-- WBYTE then RBYTE gives the byte back over `BITSTORE`, and `0xFF` over the literal `ECHO` line
(43_byte_io.md R80). -/
def Obligations.WriteThenReadGivesTheByteBack : Prop :=
  ∀ (s : State) (v : Nat) (es : List Event), OwcInv s → s.seq = .idle → s.initd = true → v ≤ 255 →
    assembleProgram [.command .wbyte (some v), .wait, .command .rbyte none, .wait] = some es →
    s.events = es →
    (s.line = .bitStore [] false → ∃ n t, steps n s = .next t ∧ t.seq = .idle ∧ t.events = [] ∧
      t.data = BitVec.ofNat 8 v ∧ t.line = .bitStore [] false ∧ t.err = 0#3) ∧
    (∀ x, s.line = .echo x → ∃ n t, steps n s = .next t ∧ t.seq = .idle ∧ t.events = [] ∧
      t.data = 0xFF#8 ∧ t.err = 0#3)

/-! ## The assembler -/

/-- What each assembler line stands for, and which lines are refused (30_encoding.md R62 to R64). That
WBYTES and CRC may have no bytes is the model's choice (DESIGN CHOICE, log 15). -/
def Obligations.AssemblerExpandsLines : Prop :=
  (∀ n, assembleLine (.command .wbit (some n)) =
    if n ≤ 1 then some [hw 1 (BitVec.ofNat 8 n), hw 0 0x03#8] else none) ∧
  (∀ n, assembleLine (.command .wbyte (some n)) =
    if n ≤ 255 then some [hw 1 (BitVec.ofNat 8 n), hw 0 0x05#8] else none) ∧
  (∀ n, assembleLine (.command .crcupd (some n)) =
    if n ≤ 255 then some [hw 1 (BitVec.ofNat 8 n), hw 0 0x08#8] else none) ∧
  (∀ i, i = .wbit ∨ i = .wbyte ∨ i = .crcupd → assembleLine (.command i none) = none) ∧
  (∀ i, i = .init ∨ i = .owreset ∨ i = .rbit ∨ i = .rbyte ∨ i = .crcclr →
    assembleLine (.command i none) = some [hw 0 (encodeByte i)] ∧
    ∀ n, assembleLine (.command i (some n)) = none) ∧
  (∀ a v, assembleLine (.hw a v) =
    if a ≤ 3 ∧ v ≤ 255 then some [hw a (BitVec.ofNat 8 v)] else none) ∧
  (∀ a, assembleLine (.hr a) = if a ≤ 3 then some [hr a] else none) ∧
  assembleLine .wait = some [.wait] ∧
  assembleLine .rddata = some [hr 1] ∧ assembleLine .rdstat = some [hr 2] ∧
  assembleLine .rdcrc = some [hr 3] ∧
  assembleLine .presence = some [hw 0 0x02#8, .wait, hr 2] ∧
  assembleLine .blank = some [] ∧
  assembleLine (.wbytes []) = some [] ∧
  (∀ b bs, assembleLine (.wbytes (b :: bs)) =
    if b ≤ 255 then
      (assembleLine (.wbytes bs)).map fun es => hw 1 (BitVec.ofNat 8 b) :: hw 0 0x05#8 :: .wait :: es
    else none) ∧
  assembleLine (.rbytes 0) = some [] ∧
  (∀ n, assembleLine (.rbytes (n + 1)) =
    (assembleLine (.rbytes n)).map fun es => hw 0 0x06#8 :: .wait :: hr 1 :: es) ∧
  (∀ bs, assembleLine (.crc bs) =
    if ∀ b ∈ bs, b ≤ 255 then
      some (hw 0 0x07#8 :: .wait ::
        bs.flatMap (fun b => [hw 1 (BitVec.ofNat 8 b), hw 0 0x08#8, .wait]) ++ [hr 3])
    else none)

/-- The Host loop WAIT ends, because the command in progress does (30_encoding.md R64). -/
def Obligations.WaitEnds : Prop :=
  ∀ (s : State) (es : List Event), OwcInv s → s.events = .wait :: es →
    (∀ q p, s.line = .bitStore q p → s.cmd ≠ 0x02#8) →
    ∃ n t v, n ≤ 35 ∧ steps n s = .next t ∧ t.seq = .idle ∧ t.events = es ∧ t.cmd = s.cmd ∧
      t.reads.getLast? = some (2, v) ∧ v = t.statusByte ∧ v.getLsbD 0 = false

/-! ## The whole machine -/

/-- The invariant holds at reset, on every Line and under every schedule. -/
def Obligations.InvHoldsAtReset : Prop :=
  ∀ (line : Line) (events : List Event), OwcInv { State.reset with line := line, events := events }

/-- Every step keeps the invariant. -/
def Obligations.StepKeepsInv : Prop :=
  ∀ s t : State, OwcInv s → step s = .next t → OwcInv t

/-- The baud invariant: whenever OWC is idle and initialized, the data rate is selected, so every bus
command but OWRESET runs at it (10_state.md R27). -/
def Obligations.IdleMeansDataRate : Prop :=
  ∀ s : State, Reachable s →
    (s.busy = false → s.initd = true → s.baudSel = .data) ∧
    ∀ c k, s.seq = .run c k → 0x03#8 ≤ c → c ≤ 0x06#8 → s.baudSel = .data

/-- The reset frame is sent only at the reset rate and the bit frames only at the data rate
(30_encoding.md R60). -/
def Obligations.FramesKeepTheirRates : Prop :=
  ∀ (s : State) (rate : Rate) (f : Byte) (a : TxAnswer), Reachable s →
    .transmit rate f a ∈ s.trace →
    (f = 0xF0#8 ∧ rate = .reset) ∨ ((f = 0xFF#8 ∨ f = 0x00#8) ∧ rate = .data)

/-- A receive is called only as the next serial operation after a transmit that answered `OK`
(20_memory.md R42). -/
def Obligations.ReceivesFollowTransmits : Prop :=
  ∀ (s : State) (pre post : List SerialOp) (a : RxAnswer), Reachable s →
    s.trace = pre ++ .receive a :: post → ∃ rate f, pre.getLast? = some (.transmit rate f .ok)

/-- No run from reset faults: the states that the model stops on are not OWC's. -/
def Obligations.NoReachableStateFaults : Prop :=
  ∀ (s : State) (r : Fault), Reachable s → step s ≠ .fault r

/-- ERR is always one of the five codes and tells how the last accepted command ended
(10_state.md R21, 60_exceptions.md R90). -/
def Obligations.ErrTellsHowTheCommandEnded : Prop :=
  ∀ s : State, Reachable s →
    s.err = 0#3 ∨
    (s.err = 1#3 ∧ s.busy = false ∧ s.cmd = 0x02#8 ∧ s.present = false) ∨
    (s.err = 2#3 ∧ s.busy = false ∧ s.initd = true ∧ 2 ≤ s.cmd.toNat ∧ s.cmd.toNat ≤ 6) ∨
    (s.err = 3#3 ∧ s.busy = false ∧ (s.cmd.toNat = 0 ∨ 9 ≤ s.cmd.toNat)) ∨
    (s.err = 4#3 ∧ s.busy = false ∧ s.initd = false ∧ 2 ≤ s.cmd.toNat ∧ s.cmd.toNat ≤ 6)

/-- Every command ends: after `k` serial calls at most `n + 1 - k` Core steps remain, whatever the
Line answers (60_exceptions.md R100). -/
def Obligations.EveryCommandEnds : Prop :=
  ∀ (s : State) (c : Byte) (k : Nat) (i : Instr), OwcInv s → s.events = [] → s.seq = .run c k →
    decode [c] = .ok (i, []) → (∀ q p, s.line = .bitStore q p → i ≠ .owreset) →
    ∃ m t, m ≤ i.serialCalls + 1 - k ∧ steps m s = .next t ∧ t.seq = .idle

/-- A command that is not refused and whose serial calls all answer takes exactly `n + 1` Core
steps, SEQ counts its serial calls, and it performs the serial operations of the table in
70_reset_and_hazards.md R120. -/
def Obligations.CoreStepCounts : Prop :=
  ∀ (i : Instr) (s : State) (rs : List Byte) (tx : List TxAnswer) (rx : List RxAnswer),
    OwcInv s → s.events = [] → s.seq = .run (encodeByte i) 0 → (i.isBus = true → s.initd = true) →
    rs.length = 8 → s.line = .listed (List.replicate 8 .ok ++ tx) (rs.map .frame ++ rx) →
    (∀ m, m ≤ i.serialCalls → ∃ u, steps m s = .next u ∧ u.seq = .run (encodeByte i) m) ∧
    ∃ t ops, steps (i.serialCalls + 1) s = .next t ∧ t.seq = .idle ∧
      t.trace = s.trace ++ ops ∧ serialCounts ops = countsOf i

/-- What a Core step may change, command by command: CRC only by CRCCLR and CRCUPD, BAUD_SEL and
PRESENT only by INIT and OWRESET, DATA only by OWRESET, RBIT and RBYTE, INITD only by INIT; CMD,
HOSTERR and the Host's data never (10_state.md R17, R30, R31). -/
def Obligations.CoreStepFrame : Prop :=
  ∀ (s t : State) (c : Byte) (k : Nat) (i : Instr), OwcInv s → s.seq = .run c k →
    decode [c] = .ok (i, []) → exec i s = .next t →
    t.cmd = s.cmd ∧ t.hosterr = s.hosterr ∧ t.events = s.events ∧ t.reads = s.reads ∧
    (i ≠ .crcclr → i ≠ .crcupd → t.crc = s.crc) ∧
    (i ≠ .init → i ≠ .owreset → t.baudSel = s.baudSel ∧ t.periph = s.periph) ∧
    (i ≠ .owreset → t.present = s.present) ∧
    (i ≠ .owreset → i ≠ .rbit → i ≠ .rbyte → t.data = s.data) ∧
    (i ≠ .init → t.initd = s.initd) ∧
    (i ≠ .wbyte → i ≠ .rbyte → t.shift = s.shift ∧ t.bitcnt = s.bitcnt) ∧
    (i = .crcclr ∨ i = .crcupd → t.trace = s.trace ∧ t.line = s.line ∧ t.draws = s.draws)

/-- Results become visible at the instant BUSY becomes 0: a Core step that leaves the command
running writes none of them (60_exceptions.md R99, 20_memory.md R35). -/
def Obligations.ResultsOnlyAtTheEnd : Prop :=
  ∀ s t : State, coreTurn s = .next t → t.busy = true →
    t.data = s.data ∧ t.crc = s.crc ∧ t.present = s.present ∧ t.err = s.err ∧ t.initd = s.initd ∧
    t.cmd = s.cmd

/-- The two components share no state: no transport command reads or writes CRC, and a checksum
command reads CRC and DATA only (00_scope.md R2). -/
def Obligations.ChecksumAndTransportAreSeparate : Prop :=
  (∀ (i : Instr) (s : State) (x : Byte), i ≠ .crcclr → i ≠ .crcupd →
    exec i { s with crc := x } = mapNext (fun t => { t with crc := x }) (exec i s)) ∧
  (∀ (i : Instr) (s s' t : State), i = .crcclr ∨ i = .crcupd →
    s.crc = s'.crc → s.data = s'.data → s.seq = s'.seq → exec i s = .next t →
    exec i s' = .next { s' with crc := t.crc, seq := t.seq, timedOut := t.timedOut })

/-- SEQ leaves IDLE only at accept, counts serial calls one by one, and returns to IDLE only by reset or
in a Core turn that ends the command: refused at dispatch, aborted, or complete after all its serial
calls (10_state.md R15, 60_exceptions.md R98, R99, R101). A host access or a poll never ends one. -/
def Obligations.SeqMovesAreAcceptCallAndEnd : Prop :=
  ∀ s t : State, step s = .next t →
    t.seq = s.seq ∨
    (s.seq = .idle ∧ ∃ v es, s.events = hw 0 v :: es ∧ t.seq = .run v 0 ∧ t.cmd = v) ∨
    ((s.events = [] ∨ ∃ es, s.events = .core :: es) ∧
      ∃ c k op, s.seq = .run c k ∧ t.seq = .run c (k + 1) ∧ op ≠ .cutByReset ∧
        t.trace = s.trace ++ [op]) ∨
    (s.seq ≠ .idle ∧ t.seq = .idle ∧ ∃ es, s.events = .hardwareReset :: es) ∨
    ((s.events = [] ∨ ∃ es, s.events = .core :: es) ∧
      ∃ c k, s.seq = .run c k ∧ t.seq = .idle ∧
        ((k = 0 ∧ t.err = 3#3) ∨ (k = 0 ∧ s.initd = false ∧ t.err = 4#3) ∨
          (s.timedOut = true ∧ t.err = 2#3) ∨
          ∃ i, decode [c] = .ok (i, []) ∧ k = i.serialCalls))

/-- HOSTERR is set by a write of CMD or DATA while busy and by nothing else, and cleared by reset and by
the accept of INIT and by nothing else (10_state.md R24). -/
def Obligations.HosterrIsSticky : Prop :=
  ∀ s t : State, step s = .next t →
    (∀ v es, s.busy = true → s.events = hw 0 v :: es ∨ s.events = hw 1 v :: es →
      t.hosterr = true) ∧
    (∀ es, s.events = .hardwareReset :: es → t.hosterr = false) ∧
    (∀ es, s.busy = false → s.events = hw 0 0x01#8 :: es → t.hosterr = false) ∧
    (s.hosterr = false → t.hosterr = true → s.busy = true ∧
      ∃ v es, s.events = hw 0 v :: es ∨ s.events = hw 1 v :: es) ∧
    (s.hosterr = true → t.hosterr = false →
      (∃ es, s.events = .hardwareReset :: es) ∨
      (s.busy = false ∧ ∃ es, s.events = hw 0 0x01#8 :: es))

/-- INITD is set only by the completion of INIT and cleared only by reset; PRESENT is written only
by INIT's accept, by OWRESET and by reset (10_state.md R20, R23). -/
def Obligations.InitdAndPresentWriters : Prop :=
  ∀ s t : State, OwcInv s → step s = .next t → (∀ es, s.events ≠ .hardwareReset :: es) →
    (t.initd ≠ s.initd → s.seq = .run 0x01#8 1 ∧ t.seq = .idle ∧ t.initd = true) ∧
    (t.present ≠ s.present →
      (s.busy = false ∧ (∃ es, s.events = hw 0 0x01#8 :: es) ∧ t.present = false) ∨
      (∃ k, s.seq = .run 0x02#8 k ∧ t.seq = .idle))

/-- BAUD_SEL changes only together with a `SerialConfigure` of its new value, RESET is set only
inside OWRESET and DATA only inside INIT and OWRESET (10_state.md R26, 70_reset_and_hazards.md R117). -/
def Obligations.BaudSelChangesWithConfigure : Prop :=
  ∀ s t : State, OwcInv s → step s = .next t → (∀ es, s.events ≠ .hardwareReset :: es) →
    t.baudSel ≠ s.baudSel →
    t.trace = s.trace ++ [.configure t.baudSel] ∧ t.periph = some t.baudSel ∧
    (t.baudSel = .reset → s.seq = .run 0x02#8 0) ∧
    (t.baudSel = .data → ∃ k, s.seq = .run 0x02#8 k)

/-- Only CRCCLR, CRCUPD and reset write CRC; every other step, a host write of CRC included, keeps it
(10_state.md R25). -/
def Obligations.CrcHasThreeWriters : Prop :=
  ∀ s t : State, step s = .next t →
    ((∀ es, s.events ≠ .hardwareReset :: es) → s.seq ≠ .run 0x07#8 0 → s.seq ≠ .run 0x08#8 0 →
      t.crc = s.crc) ∧
    (∀ es, s.events = .hardwareReset :: es → t.crc = 0x00#8) ∧
    (∀ es, s.events = [] ∨ s.events = .core :: es →
      (s.seq = .run 0x07#8 0 → t.crc = 0x00#8) ∧
      (s.seq = .run 0x08#8 0 → t.crc = crcFold s.crc s.data)) ∧
    (∀ acc es, s.events = .host acc :: es → t.crc = s.crc) ∧
    (∀ es, s.events = .wait :: es → t.crc = s.crc)
end

