-- ==== Sys2Proof/Laws/Decode.lean ====
section
/-! SUPPORT. The decoder and the encoder, each direction once. -/

namespace Sys2Proof

/-- The byte of two fields has those fields (30_encoding.md R52). -/
theorem ofByte_toByte (c : Cmd8) : Cmd8.ofByte c.toByte = c := by
  have h : ∀ r o : BitVec 4, Cmd8.ofByte (Cmd8.toByte ⟨r, o⟩) = ⟨r, o⟩ := by decide
  exact h c.rsv c.op

/-- The opcode of a command names it (30_encoding.md R54). -/
theorem instrOfOp_op (i : Instr) : instrOfOp i.op = some i := by cases i <;> rfl

/-- What a decoded byte says of its fields (30_encoding.md R52, R54). -/
theorem decodeByte_ok_iff (b : Byte) (i : Instr) :
    decodeByte b = .ok i ↔ (Cmd8.ofByte b).rsv = 0#4 ∧ instrOfOp (Cmd8.ofByte b).op = some i := by
  simp only [decodeByte]
  split
  · next h => split <;> simp_all
  · next h => simp [h]

/-- The legal opcodes are 1 to 8 (30_encoding.md R54, R55). -/
theorem instrOfOp_isSome_iff (op : BitVec 4) :
    (instrOfOp op).isSome = true ↔ 1 ≤ op.toNat ∧ op.toNat ≤ 8 := by
  revert op; decide

namespace Machine

/-- The command byte of OWRESET, as 30_encoding.md R54 prints it. -/
theorem encodeByte_owreset : encodeByte .owreset = 0x02#8 := by decide

/-- The command byte of INIT, as 30_encoding.md R54 prints it. -/
theorem encodeByte_init : encodeByte .init = 0x01#8 := by decide

end Machine

end Sys2Proof
end

