-- ==== Sys2Proof/Laws/State.lean ====
section
/-! SUPPORT. The fields of every state update: one lemma per field per update, so that no later
proof unfolds a record update. -/

namespace Sys2Proof.Machine

/-! ### `serialConfigure` -/
@[simp] theorem serialConfigure_cmd (r : Rate) (s : State) : (serialConfigure r s).cmd = s.cmd := rfl
@[simp] theorem serialConfigure_data (r : Rate) (s : State) : (serialConfigure r s).data = s.data := rfl
@[simp] theorem serialConfigure_crc (r : Rate) (s : State) : (serialConfigure r s).crc = s.crc := rfl
@[simp] theorem serialConfigure_present (r : Rate) (s : State) : (serialConfigure r s).present = s.present := rfl
@[simp] theorem serialConfigure_err (r : Rate) (s : State) : (serialConfigure r s).err = s.err := rfl
@[simp] theorem serialConfigure_initd (r : Rate) (s : State) : (serialConfigure r s).initd = s.initd := rfl
@[simp] theorem serialConfigure_hosterr (r : Rate) (s : State) : (serialConfigure r s).hosterr = s.hosterr := rfl
@[simp] theorem serialConfigure_baudSel (r : Rate) (s : State) : (serialConfigure r s).baudSel = r := rfl
@[simp] theorem serialConfigure_seq (r : Rate) (s : State) : (serialConfigure r s).seq = s.seq.called := rfl
@[simp] theorem serialConfigure_shift (r : Rate) (s : State) : (serialConfigure r s).shift = s.shift := rfl
@[simp] theorem serialConfigure_bitcnt (r : Rate) (s : State) : (serialConfigure r s).bitcnt = s.bitcnt := rfl
@[simp] theorem serialConfigure_timedOut (r : Rate) (s : State) : (serialConfigure r s).timedOut = false := rfl
@[simp] theorem serialConfigure_rx (r : Rate) (s : State) : (serialConfigure r s).rx = s.rx := rfl
@[simp] theorem serialConfigure_periph (r : Rate) (s : State) : (serialConfigure r s).periph = some r := rfl
@[simp] theorem serialConfigure_line (r : Rate) (s : State) : (serialConfigure r s).line = s.line.configure := rfl
@[simp] theorem serialConfigure_draws (r : Rate) (s : State) : (serialConfigure r s).draws = s.draws := rfl
@[simp] theorem serialConfigure_trace (r : Rate) (s : State) : (serialConfigure r s).trace = s.trace ++ [.configure r] := rfl
@[simp] theorem serialConfigure_events (r : Rate) (s : State) : (serialConfigure r s).events = s.events := rfl
@[simp] theorem serialConfigure_reads (r : Rate) (s : State) : (serialConfigure r s).reads = s.reads := rfl

/-! ### `afterTransmit` -/
@[simp] theorem afterTransmit_cmd (f : Byte) (a : TxAnswer) (l : Line) (d : Nat) (s : State) : (afterTransmit f a l d s).cmd = s.cmd := rfl
@[simp] theorem afterTransmit_data (f : Byte) (a : TxAnswer) (l : Line) (d : Nat) (s : State) : (afterTransmit f a l d s).data = s.data := rfl
@[simp] theorem afterTransmit_crc (f : Byte) (a : TxAnswer) (l : Line) (d : Nat) (s : State) : (afterTransmit f a l d s).crc = s.crc := rfl
@[simp] theorem afterTransmit_present (f : Byte) (a : TxAnswer) (l : Line) (d : Nat) (s : State) : (afterTransmit f a l d s).present = s.present := rfl
@[simp] theorem afterTransmit_err (f : Byte) (a : TxAnswer) (l : Line) (d : Nat) (s : State) : (afterTransmit f a l d s).err = s.err := rfl
@[simp] theorem afterTransmit_initd (f : Byte) (a : TxAnswer) (l : Line) (d : Nat) (s : State) : (afterTransmit f a l d s).initd = s.initd := rfl
@[simp] theorem afterTransmit_hosterr (f : Byte) (a : TxAnswer) (l : Line) (d : Nat) (s : State) : (afterTransmit f a l d s).hosterr = s.hosterr := rfl
@[simp] theorem afterTransmit_baudSel (f : Byte) (a : TxAnswer) (l : Line) (d : Nat) (s : State) : (afterTransmit f a l d s).baudSel = s.baudSel := rfl
@[simp] theorem afterTransmit_seq (f : Byte) (a : TxAnswer) (l : Line) (d : Nat) (s : State) : (afterTransmit f a l d s).seq = s.seq.called := rfl
@[simp] theorem afterTransmit_shift (f : Byte) (a : TxAnswer) (l : Line) (d : Nat) (s : State) : (afterTransmit f a l d s).shift = s.shift := rfl
@[simp] theorem afterTransmit_bitcnt (f : Byte) (a : TxAnswer) (l : Line) (d : Nat) (s : State) : (afterTransmit f a l d s).bitcnt = s.bitcnt := rfl
@[simp] theorem afterTransmit_timedOut (f : Byte) (a : TxAnswer) (l : Line) (d : Nat) (s : State) : (afterTransmit f a l d s).timedOut = txTimedOut a := rfl
@[simp] theorem afterTransmit_rx (f : Byte) (a : TxAnswer) (l : Line) (d : Nat) (s : State) : (afterTransmit f a l d s).rx = s.rx := rfl
@[simp] theorem afterTransmit_periph (f : Byte) (a : TxAnswer) (l : Line) (d : Nat) (s : State) : (afterTransmit f a l d s).periph = s.periph := rfl
@[simp] theorem afterTransmit_line (f : Byte) (a : TxAnswer) (l : Line) (d : Nat) (s : State) : (afterTransmit f a l d s).line = l := rfl
@[simp] theorem afterTransmit_draws (f : Byte) (a : TxAnswer) (l : Line) (d : Nat) (s : State) : (afterTransmit f a l d s).draws = d := rfl
@[simp] theorem afterTransmit_trace (f : Byte) (a : TxAnswer) (l : Line) (d : Nat) (s : State) : (afterTransmit f a l d s).trace = s.trace ++ [.transmit s.baudSel f a] := rfl
@[simp] theorem afterTransmit_events (f : Byte) (a : TxAnswer) (l : Line) (d : Nat) (s : State) : (afterTransmit f a l d s).events = s.events := rfl
@[simp] theorem afterTransmit_reads (f : Byte) (a : TxAnswer) (l : Line) (d : Nat) (s : State) : (afterTransmit f a l d s).reads = s.reads := rfl

/-! ### `afterReceive` -/
@[simp] theorem afterReceive_cmd (a : RxAnswer) (l : Line) (d : Nat) (s : State) : (afterReceive a l d s).cmd = s.cmd := rfl
@[simp] theorem afterReceive_data (a : RxAnswer) (l : Line) (d : Nat) (s : State) : (afterReceive a l d s).data = s.data := rfl
@[simp] theorem afterReceive_crc (a : RxAnswer) (l : Line) (d : Nat) (s : State) : (afterReceive a l d s).crc = s.crc := rfl
@[simp] theorem afterReceive_present (a : RxAnswer) (l : Line) (d : Nat) (s : State) : (afterReceive a l d s).present = s.present := rfl
@[simp] theorem afterReceive_err (a : RxAnswer) (l : Line) (d : Nat) (s : State) : (afterReceive a l d s).err = s.err := rfl
@[simp] theorem afterReceive_initd (a : RxAnswer) (l : Line) (d : Nat) (s : State) : (afterReceive a l d s).initd = s.initd := rfl
@[simp] theorem afterReceive_hosterr (a : RxAnswer) (l : Line) (d : Nat) (s : State) : (afterReceive a l d s).hosterr = s.hosterr := rfl
@[simp] theorem afterReceive_baudSel (a : RxAnswer) (l : Line) (d : Nat) (s : State) : (afterReceive a l d s).baudSel = s.baudSel := rfl
@[simp] theorem afterReceive_seq (a : RxAnswer) (l : Line) (d : Nat) (s : State) : (afterReceive a l d s).seq = s.seq.called := rfl
@[simp] theorem afterReceive_shift (a : RxAnswer) (l : Line) (d : Nat) (s : State) : (afterReceive a l d s).shift = s.shift := rfl
@[simp] theorem afterReceive_bitcnt (a : RxAnswer) (l : Line) (d : Nat) (s : State) : (afterReceive a l d s).bitcnt = s.bitcnt := rfl
@[simp] theorem afterReceive_timedOut (a : RxAnswer) (l : Line) (d : Nat) (s : State) : (afterReceive a l d s).timedOut = rxTimedOut a := rfl
@[simp] theorem afterReceive_rx (a : RxAnswer) (l : Line) (d : Nat) (s : State) : (afterReceive a l d s).rx = rxFrameOr s.rx a := rfl
@[simp] theorem afterReceive_periph (a : RxAnswer) (l : Line) (d : Nat) (s : State) : (afterReceive a l d s).periph = s.periph := rfl
@[simp] theorem afterReceive_line (a : RxAnswer) (l : Line) (d : Nat) (s : State) : (afterReceive a l d s).line = l := rfl
@[simp] theorem afterReceive_draws (a : RxAnswer) (l : Line) (d : Nat) (s : State) : (afterReceive a l d s).draws = d := rfl
@[simp] theorem afterReceive_trace (a : RxAnswer) (l : Line) (d : Nat) (s : State) : (afterReceive a l d s).trace = s.trace ++ [.receive a] := rfl
@[simp] theorem afterReceive_events (a : RxAnswer) (l : Line) (d : Nat) (s : State) : (afterReceive a l d s).events = s.events := rfl
@[simp] theorem afterReceive_reads (a : RxAnswer) (l : Line) (d : Nat) (s : State) : (afterReceive a l d s).reads = s.reads := rfl

/-! ### `accept` -/
@[simp] theorem accept_cmd (v : Byte) (s : State) : (accept v s).cmd = v := rfl
@[simp] theorem accept_data (v : Byte) (s : State) : (accept v s).data = s.data := rfl
@[simp] theorem accept_crc (v : Byte) (s : State) : (accept v s).crc = s.crc := rfl
@[simp] theorem accept_present (v : Byte) (s : State) : (accept v s).present = if v = encodeByte .init then false else s.present := rfl
@[simp] theorem accept_err (v : Byte) (s : State) : (accept v s).err = ErrCode.none.code := rfl
@[simp] theorem accept_initd (v : Byte) (s : State) : (accept v s).initd = s.initd := rfl
@[simp] theorem accept_hosterr (v : Byte) (s : State) : (accept v s).hosterr = if v = encodeByte .init then false else s.hosterr := rfl
@[simp] theorem accept_baudSel (v : Byte) (s : State) : (accept v s).baudSel = s.baudSel := rfl
@[simp] theorem accept_seq (v : Byte) (s : State) : (accept v s).seq = .run v 0 := rfl
@[simp] theorem accept_shift (v : Byte) (s : State) : (accept v s).shift = s.shift := rfl
@[simp] theorem accept_bitcnt (v : Byte) (s : State) : (accept v s).bitcnt = s.bitcnt := rfl
@[simp] theorem accept_timedOut (v : Byte) (s : State) : (accept v s).timedOut = false := rfl
@[simp] theorem accept_rx (v : Byte) (s : State) : (accept v s).rx = s.rx := rfl
@[simp] theorem accept_periph (v : Byte) (s : State) : (accept v s).periph = s.periph := rfl
@[simp] theorem accept_line (v : Byte) (s : State) : (accept v s).line = s.line := rfl
@[simp] theorem accept_draws (v : Byte) (s : State) : (accept v s).draws = s.draws := rfl
@[simp] theorem accept_trace (v : Byte) (s : State) : (accept v s).trace = s.trace := rfl
@[simp] theorem accept_events (v : Byte) (s : State) : (accept v s).events = s.events := rfl
@[simp] theorem accept_reads (v : Byte) (s : State) : (accept v s).reads = s.reads := rfl

/-! ### `finish` -/
@[simp] theorem finish_cmd (s : State) : (finish s).cmd = s.cmd := rfl
@[simp] theorem finish_data (s : State) : (finish s).data = s.data := rfl
@[simp] theorem finish_crc (s : State) : (finish s).crc = s.crc := rfl
@[simp] theorem finish_present (s : State) : (finish s).present = s.present := rfl
@[simp] theorem finish_err (s : State) : (finish s).err = s.err := rfl
@[simp] theorem finish_initd (s : State) : (finish s).initd = s.initd := rfl
@[simp] theorem finish_hosterr (s : State) : (finish s).hosterr = s.hosterr := rfl
@[simp] theorem finish_baudSel (s : State) : (finish s).baudSel = s.baudSel := rfl
@[simp] theorem finish_seq (s : State) : (finish s).seq = .idle := rfl
@[simp] theorem finish_shift (s : State) : (finish s).shift = s.shift := rfl
@[simp] theorem finish_bitcnt (s : State) : (finish s).bitcnt = s.bitcnt := rfl
@[simp] theorem finish_timedOut (s : State) : (finish s).timedOut = false := rfl
@[simp] theorem finish_rx (s : State) : (finish s).rx = s.rx := rfl
@[simp] theorem finish_periph (s : State) : (finish s).periph = s.periph := rfl
@[simp] theorem finish_line (s : State) : (finish s).line = s.line := rfl
@[simp] theorem finish_draws (s : State) : (finish s).draws = s.draws := rfl
@[simp] theorem finish_trace (s : State) : (finish s).trace = s.trace := rfl
@[simp] theorem finish_events (s : State) : (finish s).events = s.events := rfl
@[simp] theorem finish_reads (s : State) : (finish s).reads = s.reads := rfl

/-! ### `endWithError` -/
@[simp] theorem endWithError_cmd (e : ErrCode) (s : State) : (endWithError e s).cmd = s.cmd := rfl
@[simp] theorem endWithError_data (e : ErrCode) (s : State) : (endWithError e s).data = s.data := rfl
@[simp] theorem endWithError_crc (e : ErrCode) (s : State) : (endWithError e s).crc = s.crc := rfl
@[simp] theorem endWithError_present (e : ErrCode) (s : State) : (endWithError e s).present = s.present := rfl
@[simp] theorem endWithError_err (e : ErrCode) (s : State) : (endWithError e s).err = e.code := rfl
@[simp] theorem endWithError_initd (e : ErrCode) (s : State) : (endWithError e s).initd = s.initd := rfl
@[simp] theorem endWithError_hosterr (e : ErrCode) (s : State) : (endWithError e s).hosterr = s.hosterr := rfl
@[simp] theorem endWithError_baudSel (e : ErrCode) (s : State) : (endWithError e s).baudSel = s.baudSel := rfl
@[simp] theorem endWithError_seq (e : ErrCode) (s : State) : (endWithError e s).seq = .idle := rfl
@[simp] theorem endWithError_shift (e : ErrCode) (s : State) : (endWithError e s).shift = s.shift := rfl
@[simp] theorem endWithError_bitcnt (e : ErrCode) (s : State) : (endWithError e s).bitcnt = s.bitcnt := rfl
@[simp] theorem endWithError_timedOut (e : ErrCode) (s : State) : (endWithError e s).timedOut = false := rfl
@[simp] theorem endWithError_rx (e : ErrCode) (s : State) : (endWithError e s).rx = s.rx := rfl
@[simp] theorem endWithError_periph (e : ErrCode) (s : State) : (endWithError e s).periph = s.periph := rfl
@[simp] theorem endWithError_line (e : ErrCode) (s : State) : (endWithError e s).line = s.line := rfl
@[simp] theorem endWithError_draws (e : ErrCode) (s : State) : (endWithError e s).draws = s.draws := rfl
@[simp] theorem endWithError_trace (e : ErrCode) (s : State) : (endWithError e s).trace = s.trace := rfl
@[simp] theorem endWithError_events (e : ErrCode) (s : State) : (endWithError e s).events = s.events := rfl
@[simp] theorem endWithError_reads (e : ErrCode) (s : State) : (endWithError e s).reads = s.reads := rfl

/-! ### `reportPresence` -/
@[simp] theorem reportPresence_cmd (s : State) : (reportPresence s).cmd = s.cmd := rfl
@[simp] theorem reportPresence_data (s : State) : (reportPresence s).data = s.rx := rfl
@[simp] theorem reportPresence_crc (s : State) : (reportPresence s).crc = s.crc := rfl
@[simp] theorem reportPresence_present (s : State) : (reportPresence s).present = presenceOf s.rx := rfl
@[simp] theorem reportPresence_err (s : State) : (reportPresence s).err = (presenceErr s.rx).code := rfl
@[simp] theorem reportPresence_initd (s : State) : (reportPresence s).initd = s.initd := rfl
@[simp] theorem reportPresence_hosterr (s : State) : (reportPresence s).hosterr = s.hosterr := rfl
@[simp] theorem reportPresence_baudSel (s : State) : (reportPresence s).baudSel = s.baudSel := rfl
@[simp] theorem reportPresence_seq (s : State) : (reportPresence s).seq = .idle := rfl
@[simp] theorem reportPresence_shift (s : State) : (reportPresence s).shift = s.shift := rfl
@[simp] theorem reportPresence_bitcnt (s : State) : (reportPresence s).bitcnt = s.bitcnt := rfl
@[simp] theorem reportPresence_timedOut (s : State) : (reportPresence s).timedOut = false := rfl
@[simp] theorem reportPresence_rx (s : State) : (reportPresence s).rx = s.rx := rfl
@[simp] theorem reportPresence_periph (s : State) : (reportPresence s).periph = s.periph := rfl
@[simp] theorem reportPresence_line (s : State) : (reportPresence s).line = s.line := rfl
@[simp] theorem reportPresence_draws (s : State) : (reportPresence s).draws = s.draws := rfl
@[simp] theorem reportPresence_trace (s : State) : (reportPresence s).trace = s.trace := rfl
@[simp] theorem reportPresence_events (s : State) : (reportPresence s).events = s.events := rfl
@[simp] theorem reportPresence_reads (s : State) : (reportPresence s).reads = s.reads := rfl

/-! ### `writeSlot` -/
@[simp] theorem writeSlot_cmd (k : Nat) (s : State) : (writeSlot k s).cmd = s.cmd := rfl
@[simp] theorem writeSlot_data (k : Nat) (s : State) : (writeSlot k s).data = s.data := rfl
@[simp] theorem writeSlot_crc (k : Nat) (s : State) : (writeSlot k s).crc = s.crc := rfl
@[simp] theorem writeSlot_present (k : Nat) (s : State) : (writeSlot k s).present = s.present := rfl
@[simp] theorem writeSlot_err (k : Nat) (s : State) : (writeSlot k s).err = s.err := rfl
@[simp] theorem writeSlot_initd (k : Nat) (s : State) : (writeSlot k s).initd = s.initd := rfl
@[simp] theorem writeSlot_hosterr (k : Nat) (s : State) : (writeSlot k s).hosterr = s.hosterr := rfl
@[simp] theorem writeSlot_baudSel (k : Nat) (s : State) : (writeSlot k s).baudSel = s.baudSel := rfl
@[simp] theorem writeSlot_seq (k : Nat) (s : State) : (writeSlot k s).seq = s.seq := rfl
@[simp] theorem writeSlot_shift (k : Nat) (s : State) : (writeSlot k s).shift = if k = 0 then s.byteOperand else shiftOut s.shift := rfl
@[simp] theorem writeSlot_bitcnt (k : Nat) (s : State) : (writeSlot k s).bitcnt = Fin.ofNat 9 k := rfl
@[simp] theorem writeSlot_timedOut (k : Nat) (s : State) : (writeSlot k s).timedOut = s.timedOut := rfl
@[simp] theorem writeSlot_rx (k : Nat) (s : State) : (writeSlot k s).rx = s.rx := rfl
@[simp] theorem writeSlot_periph (k : Nat) (s : State) : (writeSlot k s).periph = s.periph := rfl
@[simp] theorem writeSlot_line (k : Nat) (s : State) : (writeSlot k s).line = s.line := rfl
@[simp] theorem writeSlot_draws (k : Nat) (s : State) : (writeSlot k s).draws = s.draws := rfl
@[simp] theorem writeSlot_trace (k : Nat) (s : State) : (writeSlot k s).trace = s.trace := rfl
@[simp] theorem writeSlot_events (k : Nat) (s : State) : (writeSlot k s).events = s.events := rfl
@[simp] theorem writeSlot_reads (k : Nat) (s : State) : (writeSlot k s).reads = s.reads := rfl

/-! ### `readSlot` -/
@[simp] theorem readSlot_cmd (i : Nat) (s : State) : (readSlot i s).cmd = s.cmd := rfl
@[simp] theorem readSlot_data (i : Nat) (s : State) : (readSlot i s).data = s.data := rfl
@[simp] theorem readSlot_crc (i : Nat) (s : State) : (readSlot i s).crc = s.crc := rfl
@[simp] theorem readSlot_present (i : Nat) (s : State) : (readSlot i s).present = s.present := rfl
@[simp] theorem readSlot_err (i : Nat) (s : State) : (readSlot i s).err = s.err := rfl
@[simp] theorem readSlot_initd (i : Nat) (s : State) : (readSlot i s).initd = s.initd := rfl
@[simp] theorem readSlot_hosterr (i : Nat) (s : State) : (readSlot i s).hosterr = s.hosterr := rfl
@[simp] theorem readSlot_baudSel (i : Nat) (s : State) : (readSlot i s).baudSel = s.baudSel := rfl
@[simp] theorem readSlot_seq (i : Nat) (s : State) : (readSlot i s).seq = s.seq := rfl
@[simp] theorem readSlot_shift (i : Nat) (s : State) : (readSlot i s).shift = if i = 0 then 0x00#8 else shiftIn s.shift (readBit s.rx) := rfl
@[simp] theorem readSlot_bitcnt (i : Nat) (s : State) : (readSlot i s).bitcnt = Fin.ofNat 9 i := rfl
@[simp] theorem readSlot_timedOut (i : Nat) (s : State) : (readSlot i s).timedOut = s.timedOut := rfl
@[simp] theorem readSlot_rx (i : Nat) (s : State) : (readSlot i s).rx = s.rx := rfl
@[simp] theorem readSlot_periph (i : Nat) (s : State) : (readSlot i s).periph = s.periph := rfl
@[simp] theorem readSlot_line (i : Nat) (s : State) : (readSlot i s).line = s.line := rfl
@[simp] theorem readSlot_draws (i : Nat) (s : State) : (readSlot i s).draws = s.draws := rfl
@[simp] theorem readSlot_trace (i : Nat) (s : State) : (readSlot i s).trace = s.trace := rfl
@[simp] theorem readSlot_events (i : Nat) (s : State) : (readSlot i s).events = s.events := rfl
@[simp] theorem readSlot_reads (i : Nat) (s : State) : (readSlot i s).reads = s.reads := rfl

/-! ### `hardwareReset` -/
@[simp] theorem hardwareReset_cmd (s : State) : (hardwareReset s).cmd = State.reset.cmd := rfl
@[simp] theorem hardwareReset_data (s : State) : (hardwareReset s).data = State.reset.data := rfl
@[simp] theorem hardwareReset_crc (s : State) : (hardwareReset s).crc = State.reset.crc := rfl
@[simp] theorem hardwareReset_present (s : State) : (hardwareReset s).present = State.reset.present := rfl
@[simp] theorem hardwareReset_err (s : State) : (hardwareReset s).err = State.reset.err := rfl
@[simp] theorem hardwareReset_initd (s : State) : (hardwareReset s).initd = State.reset.initd := rfl
@[simp] theorem hardwareReset_hosterr (s : State) : (hardwareReset s).hosterr = State.reset.hosterr := rfl
@[simp] theorem hardwareReset_baudSel (s : State) : (hardwareReset s).baudSel = State.reset.baudSel := rfl
@[simp] theorem hardwareReset_seq (s : State) : (hardwareReset s).seq = State.reset.seq := rfl
@[simp] theorem hardwareReset_shift (s : State) : (hardwareReset s).shift = State.reset.shift := rfl
@[simp] theorem hardwareReset_bitcnt (s : State) : (hardwareReset s).bitcnt = State.reset.bitcnt := rfl
@[simp] theorem hardwareReset_timedOut (s : State) : (hardwareReset s).timedOut = State.reset.timedOut := rfl
@[simp] theorem hardwareReset_rx (s : State) : (hardwareReset s).rx = State.reset.rx := rfl
@[simp] theorem hardwareReset_periph (s : State) : (hardwareReset s).periph = State.reset.periph := rfl
@[simp] theorem hardwareReset_line (s : State) : (hardwareReset s).line = s.line := rfl
@[simp] theorem hardwareReset_draws (s : State) : (hardwareReset s).draws = s.draws := rfl
@[simp] theorem hardwareReset_trace (s : State) : (hardwareReset s).trace = if s.busy then s.trace ++ [.cutByReset] else s.trace := rfl
@[simp] theorem hardwareReset_events (s : State) : (hardwareReset s).events = s.events := rfl
@[simp] theorem hardwareReset_reads (s : State) : (hardwareReset s).reads = s.reads := rfl

/-! ### SEQ and BUSY -/
@[simp] theorem called_idle : Seq.idle.called = .idle := rfl
@[simp] theorem called_run (c : Byte) (k : Nat) : (Seq.run c k).called = .run c (k + 1) := rfl

theorem busy_of_run {s : State} {c : Byte} {k : Nat} (h : s.seq = .run c k) : s.busy = true := by
  simp [State.busy, h]

theorem not_busy_of_idle {s : State} (h : s.seq = .idle) : s.busy = false := by
  simp [State.busy, h]

/-- STATUS.BUSY is 1 exactly when SEQ names a command (10_state.md R19). -/
theorem busy_iff (s : State) : s.busy = true ↔ ∃ c k, s.seq = .run c k := by
  cases h : s.seq <;> simp [State.busy, h]

end Sys2Proof.Machine
end

