-- ==== Sys2Proof/Laws/Ops.lean ====
section
/-! SUPPORT. Each shared operation, once: everything it can do. -/

namespace Sys2Proof.Machine

/-! ## The parameters -/

/-- All that is known of the baud parameters (00_scope.md R10). -/
theorem resetBaud_lt_dataBaud : 0 < Config.resetBaud ∧ Config.resetBaud < Config.dataBaud := by
  simp only [Config.resetBaud, Config.dataBaud]
  omega

/-! ## The Line -/

/-- A transmit is refused only by `BITSTORE` given a reset frame (20_memory.md R46). -/
theorem transmit_eq_none_iff (f : Byte) (n : Nat) (l : Line) :
    l.transmit f n = none ↔ f = resetFrame ∧ ∃ q p, l = .bitStore q p := by
  rcases l with ⟨_ | ⟨a, tx⟩, rx⟩ | _ | ⟨q, p⟩ <;> simp [Line.transmit]

/-- A data-rate frame is answered by every Line. -/
theorem transmit_some_of_ne {f : Byte} (h : f ≠ resetFrame) (n : Nat) (l : Line) :
    ∃ a l' n', l.transmit f n = some (a, l', n') := by
  rcases e : l.transmit f n with _ | ⟨a, l', n'⟩
  · exact absurd ((transmit_eq_none_iff f n l).1 e).1 h
  · exact ⟨a, l', n', rfl⟩

theorem bitFrame_ne_resetFrame (b : Bool) : bitFrame b ≠ resetFrame := by cases b <;> decide

theorem probeFrame_ne_resetFrame : probeFrame ≠ resetFrame := by decide

/-! ## The serial operations -/

/-- Everything a transmit can do when it answers a next state (20_memory.md R41). -/
theorem serialTransmit_next_iff (f : Byte) (s t : State) :
    serialTransmit f s = .next t ↔
      ∃ a l d, s.line.transmit f s.draws = some (a, l, d) ∧ t = afterTransmit f a l d s := by
  rcases e : s.line.transmit f s.draws with _ | ⟨a, l, d⟩ <;> simp [serialTransmit, e, eq_comm]

/-- A transmit that the Line answers. -/
theorem serialTransmit_of_some {f : Byte} {s : State} {a : TxAnswer} {l : Line} {d : Nat}
    (h : s.line.transmit f s.draws = some (a, l, d)) :
    serialTransmit f s = .next (afterTransmit f a l d s) := by
  simp [serialTransmit, h]

/-- A transmit never faults. -/
theorem serialTransmit_ne_fault (f : Byte) (s : State) (r : Fault) :
    serialTransmit f s ≠ .fault r := by
  rcases e : s.line.transmit f s.draws with _ | ⟨a, l, d⟩ <;> simp [serialTransmit, e]

/-- A receive always answers (20_memory.md R42). -/
theorem serialReceive_eq (s : State) :
    serialReceive s = afterReceive (s.line.receive s.draws).1 (s.line.receive s.draws).2.1
      (s.line.receive s.draws).2.2 s := rfl

/-! ## The command lifecycle -/

/-- Dispatch of a bus command (60_exceptions.md R94, R98). -/
theorem busStep_first {s : State} {c : Byte} (h : s.seq = .run c 0) (body : Nat → Result) :
    busStep s body = if s.initd then body 0 else .next (endWithError .notInit s) := by
  simp [busStep, h]

/-- A later Core step of a bus command (60_exceptions.md R99, R101). -/
theorem busStep_later {s : State} {c : Byte} {k : Nat} (h : s.seq = .run c (k + 1))
    (body : Nat → Result) :
    busStep s body = if s.timedOut then .next (abort s) else body (k + 1) := by
  simp [busStep, h]

/-- Everything a Core step of a bus command can do when it answers a next state. -/
theorem busStep_next_cases {s t : State} {body : Nat → Result} (h : busStep s body = .next t) :
    (∃ c, s.seq = .run c 0 ∧ s.initd = false ∧ t = endWithError .notInit s) ∨
    (∃ c k, s.seq = .run c (k + 1) ∧ s.timedOut = true ∧ t = abort s) ∨
    (∃ c k, s.seq = .run c k ∧ (k = 0 → s.initd = true) ∧ (k ≠ 0 → s.timedOut = false) ∧
      body k = .next t) := by
  rcases e : s.seq with _ | ⟨c, _ | k⟩ <;> simp only [busStep, e] at h
  · cases h
  · split at h
    · exact .inr (.inr ⟨c, 0, rfl, fun _ => by assumption, by simp, h⟩)
    · cases h; exact .inl ⟨c, rfl, by simp_all, rfl⟩
  · split at h
    · cases h; exact .inr (.inl ⟨c, k, rfl, by assumption, rfl⟩)
    · exact .inr (.inr ⟨c, k + 1, rfl, by simp, fun _ => by simp_all, h⟩)

theorem plainStep_run {s : State} {c : Byte} {k : Nat} (h : s.seq = .run c k)
    (body : Nat → Result) : plainStep s body = body k := by
  simp [plainStep, h]

/-- The abort step when the data rate is active: only PRESENT, ERR and SEQ can change
(60_exceptions.md R101). -/
theorem abort_of_data {s : State} (h : s.baudSel = .data) :
    abort s = endWithError .timeout
      { s with present := if s.cmd = encodeByte .owreset then false else s.present } := by
  simp [abort, h]

/-- The abort step inside OWRESET restores the data rate first (60_exceptions.md R101). -/
theorem abort_of_reset {s : State} (h : s.baudSel = .reset) :
    abort s = endWithError .timeout { serialConfigure .data s with
      present := if s.cmd = encodeByte .owreset then false else s.present } := by
  simp [abort, h]

/-- Every command that an abort ends leaves the machine idle at the data rate, and the
registers the spec names keep their values (60_exceptions.md R101). -/
theorem abort_keeps (s : State) :
    (abort s).seq = .idle ∧ (abort s).baudSel = .data ∧ (abort s).err = ErrCode.timeout.code ∧
    (abort s).data = s.data ∧ (abort s).crc = s.crc ∧ (abort s).cmd = s.cmd ∧
    (abort s).initd = s.initd ∧ (abort s).hosterr = s.hosterr ∧ (abort s).events = s.events ∧
    (abort s).reads = s.reads := by
  cases h : s.baudSel <;> simp [abort, h]

/-! ## The host port -/

/-- Everything a read can do (20_memory.md R33, R35). -/
theorem hostRead_next_iff (a : Nat) (s t : State) :
    hostRead a s = .next t ↔
      ∃ v, s.register a = some v ∧ t = { s with reads := s.reads ++ [(a, v)] } := by
  rcases e : s.register a with _ | v <;> simp [hostRead, e, eq_comm]

/-- The host port has the addresses 0..3 and no other (20_memory.md R32). -/
theorem register_isSome_iff (s : State) (a : Nat) : (s.register a).isSome = true ↔ a ≤ 3 := by
  rcases a with _ | _ | _ | _ | a <;> simp [State.register]

/-- Everything a write can do (20_memory.md R33, R36, R37). -/
theorem hostWrite_next_cases {a : Nat} {v : Byte} {s t : State} (h : hostWrite a v s = .next t) :
    (a ≤ 1 ∧ s.busy = true ∧ t = { s with hosterr := true }) ∨
    (a = 0 ∧ s.busy = false ∧ t = accept v s) ∨
    (a = 1 ∧ s.busy = false ∧ t = { s with data := v }) ∨
    ((a = 2 ∨ a = 3) ∧ t = s) := by
  unfold hostWrite at h
  split at h
  · cases h; cases hb : s.busy <;> simp
  · cases h; cases hb : s.busy <;> simp
  · cases h; simp
  · cases h; simp
  · cases h

/-- A poll of WAIT reads STATUS, and asks for a Core turn and another poll while BUSY
(30_encoding.md R64). -/
theorem waitPoll_eq (s : State) :
    waitPoll s = .next { s with
      events := if s.busy then .core :: .wait :: s.events else s.events
      reads := s.reads ++ [(2, s.statusByte)] } := by
  cases hb : s.busy <;> simp [waitPoll, hostRead, State.register, hb]
  rfl

/-! ## Steps -/

theorem step_of_err {s : State} (h : reservedErr s.err = false) : step s = move s := by
  simp [step, h]

theorem move_nil {s : State} (h : s.events = []) : move s = coreTurn s := by
  simp [move, h]

theorem move_cons {s : State} {e : Event} {es : List Event} (h : s.events = e :: es) :
    move s = takeEvent e { s with events := es } := by
  simp [move, h]

theorem coreTurn_idle {s : State} (h : s.seq = .idle) : coreTurn s = .next s := by
  simp [coreTurn, h]

theorem coreTurn_run {s : State} {c : Byte} {k : Nat} {i : Instr} (h : s.seq = .run c k)
    (hd : decodeByte c = .ok i) : coreTurn s = exec i s := by
  simp [coreTurn, h, hd]

theorem coreTurn_illegal {s : State} {c : Byte} {k : Nat} {e : DecodeError}
    (h : s.seq = .run c k) (hd : decodeByte c = .error e) : coreTurn s = illegalStep s := by
  simp [coreTurn, h, hd]

/-- A placed command runs in the next step (60_exceptions.md R97 to R99; DESIGN CHOICE, log 2). -/
theorem step_place {v : Byte} {i : Instr} (h : decodeByte v = .ok i) (s : State) :
    step (place v s) = exec i { accept v s with events := s.events } := by
  rw [step_of_err (s := place v s) (show reservedErr 0#3 = false by decide), move_cons (s := place v s) rfl]
  exact coreTurn_run (s := accept v s) rfl h

/-! ## Runs -/

theorem steps_zero (s : State) : steps 0 s = .next s := rfl

theorem steps_succ_of_next {s t : State} (h : step s = .next t) (n : Nat) :
    steps (n + 1) s = steps n t := by
  simp [steps, h]

/-- A run cut in two. -/
theorem steps_add {m n : Nat} {s t : State} (h : steps m s = .next t) :
    steps (m + n) s = steps n t := by
  induction m generalizing s with
  | zero => simp only [steps] at h; cases h; simp
  | succ m ih =>
    rcases e : step s with u | r | r <;> simp only [steps, e] at h
    · rw [Nat.add_right_comm, steps_succ_of_next e]; exact ih h
    · cases h
    · cases h

/-- `steps` is the run of the host's interface. -/
theorem steps_eq_core_run (n : Nat) (s : State) : steps n s = Sys2Proof.core.run n s := by
  induction n generalizing s with
  | zero => rfl
  | succ n ih =>
    rcases e : step s with u | r | r
    · have hc : core.step s = .next u := e
      rw [steps_succ_of_next e, ih]
      simp only [Host.Core.run, hc]
      rfl
    · have hc : core.step s = .fault r := e
      simp only [steps, e, Host.Core.run, hc]
      rfl
    · have hc : core.step s = .refused r := e
      simp only [steps, e, Host.Core.run, hc]
      rfl

end Sys2Proof.Machine
end

