-- ==== Sys2Proof/Laws/Exec.lean ====
section
/-! SUPPORT. Each command's meaning, once: everything one Core step of it can do when it answers
a next state; and what the Core's turn and a step can do. -/

namespace Sys2Proof.Machine

/-- INIT configures, then completes (40_init.md R65). -/
theorem execInit_next_cases {s t : State} (h : execInit s = .next t) :
    (∃ c, s.seq = .run c 0 ∧ t = serialConfigure .data s) ∨
    (∃ c, s.seq = .run c 1 ∧ t = finish { s with initd := true }) := by
  rcases e : s.seq with _ | ⟨c, _ | _ | k⟩ <;> simp [execInit, plainStep, e] at h <;> simp [← h]

/-- A Core step of OWRESET past dispatch and abort (41_reset_presence.md R68). -/
theorem execOwreset_next_cases {s t : State} (h : execOwreset s = .next t) :
    (∃ c, s.seq = .run c 0 ∧ s.initd = false ∧ t = endWithError .notInit s) ∨
    (∃ c k, s.seq = .run c (k + 1) ∧ s.timedOut = true ∧ t = abort s) ∨
    (∃ c, s.seq = .run c 0 ∧ s.initd = true ∧ t = serialConfigure .reset s) ∨
    (∃ c a l d, s.seq = .run c 1 ∧ s.timedOut = false ∧
      s.line.transmit resetFrame s.draws = some (a, l, d) ∧ t = afterTransmit resetFrame a l d s) ∨
    (∃ c, s.seq = .run c 2 ∧ s.timedOut = false ∧ t = serialReceive s) ∨
    (∃ c, s.seq = .run c 3 ∧ s.timedOut = false ∧ t = serialConfigure .data s) ∨
    (∃ c, s.seq = .run c 4 ∧ s.timedOut = false ∧ t = reportPresence s) := by
  rcases busStep_next_cases h with h | h | ⟨c, k, hs, h0, h1, h⟩
  · exact .inl h
  · exact .inr (.inl h)
  · rcases k with _ | _ | _ | _ | _ | k <;> simp at h0 h1 h
    · exact .inr (.inr (.inl ⟨c, hs, h0, h.symm⟩))
    · obtain ⟨a, l, d, ht, rfl⟩ := (serialTransmit_next_iff _ _ _).1 h
      exact .inr (.inr (.inr (.inl ⟨c, a, l, d, hs, h1, ht, rfl⟩)))
    · exact .inr (.inr (.inr (.inr (.inl ⟨c, hs, h1, h.symm⟩))))
    · exact .inr (.inr (.inr (.inr (.inr (.inl ⟨c, hs, h1, h.symm⟩)))))
    · exact .inr (.inr (.inr (.inr (.inr (.inr ⟨c, hs, h1, h.symm⟩)))))

/-- A Core step of WBIT (42_bit_io.md R74). -/
theorem execWbit_next_cases {s t : State} (h : execWbit s = .next t) :
    (∃ c, s.seq = .run c 0 ∧ s.initd = false ∧ t = endWithError .notInit s) ∨
    (∃ c k, s.seq = .run c (k + 1) ∧ s.timedOut = true ∧ t = abort s) ∨
    (∃ c a l d, s.seq = .run c 0 ∧ s.initd = true ∧
      s.line.transmit (bitFrame s.bitOperand) s.draws = some (a, l, d) ∧
      t = afterTransmit (bitFrame s.bitOperand) a l d s) ∨
    (∃ c, s.seq = .run c 1 ∧ s.timedOut = false ∧ t = finish s) := by
  rcases busStep_next_cases h with h | h | ⟨c, k, hs, h0, h1, h⟩
  · exact .inl h
  · exact .inr (.inl h)
  · rcases k with _ | _ | k <;> simp at h0 h1 h
    · obtain ⟨a, l, d, ht, rfl⟩ := (serialTransmit_next_iff _ _ _).1 h
      exact .inr (.inr (.inl ⟨c, a, l, d, hs, h0, ht, rfl⟩))
    · exact .inr (.inr (.inr ⟨c, hs, h1, h.symm⟩))

/-- A Core step of RBIT (42_bit_io.md R75). -/
theorem execRbit_next_cases {s t : State} (h : execRbit s = .next t) :
    (∃ c, s.seq = .run c 0 ∧ s.initd = false ∧ t = endWithError .notInit s) ∨
    (∃ c k, s.seq = .run c (k + 1) ∧ s.timedOut = true ∧ t = abort s) ∨
    (∃ c a l d, s.seq = .run c 0 ∧ s.initd = true ∧
      s.line.transmit probeFrame s.draws = some (a, l, d) ∧ t = afterTransmit probeFrame a l d s) ∨
    (∃ c, s.seq = .run c 1 ∧ s.timedOut = false ∧ t = serialReceive s) ∨
    (∃ c, s.seq = .run c 2 ∧ s.timedOut = false ∧
      t = finish { s with data := zext8 (readBit s.rx) }) := by
  rcases busStep_next_cases h with h | h | ⟨c, k, hs, h0, h1, h⟩
  · exact .inl h
  · exact .inr (.inl h)
  · rcases k with _ | _ | _ | k <;> simp at h0 h1 h
    · obtain ⟨a, l, d, ht, rfl⟩ := (serialTransmit_next_iff _ _ _).1 h
      exact .inr (.inr (.inl ⟨c, a, l, d, hs, h0, ht, rfl⟩))
    · exact .inr (.inr (.inr (.inl ⟨c, hs, h1, h.symm⟩)))
    · exact .inr (.inr (.inr (.inr ⟨c, hs, h1, h.symm⟩)))

/-- A Core step of WBYTE (43_byte_io.md R77). -/
theorem execWbyte_next_cases {s t : State} (h : execWbyte s = .next t) :
    (∃ c, s.seq = .run c 0 ∧ s.initd = false ∧ t = endWithError .notInit s) ∨
    (∃ c k, s.seq = .run c (k + 1) ∧ s.timedOut = true ∧ t = abort s) ∨
    (∃ c k a l d, s.seq = .run c k ∧ k < 8 ∧ (k = 0 → s.initd = true) ∧
      (k ≠ 0 → s.timedOut = false) ∧
      s.line.transmit (bitFrame ((writeSlot k s).shift.getLsbD 0)) s.draws = some (a, l, d) ∧
      t = afterTransmit (bitFrame ((writeSlot k s).shift.getLsbD 0)) a l d (writeSlot k s)) ∨
    (∃ c, s.seq = .run c 8 ∧ s.timedOut = false ∧ t = finish (writeSlot 8 s)) := by
  rcases busStep_next_cases h with h | h | ⟨c, k, hs, h0, h1, h⟩
  · exact .inl h
  · exact .inr (.inl h)
  · simp only at h
    split at h
    · obtain ⟨a, l, d, ht, rfl⟩ := (serialTransmit_next_iff _ _ _).1 h
      exact .inr (.inr (.inl ⟨c, k, a, l, d, hs, by assumption, h0, h1, ht, rfl⟩))
    · split at h
      · next hk =>
        subst hk
        cases h
        exact .inr (.inr (.inr ⟨c, hs, h1 (by decide), rfl⟩))
      · cases h

/-- A Core step of RBYTE (43_byte_io.md R78). -/
theorem execRbyte_next_cases {s t : State} (h : execRbyte s = .next t) :
    (∃ c, s.seq = .run c 0 ∧ s.initd = false ∧ t = endWithError .notInit s) ∨
    (∃ c k, s.seq = .run c (k + 1) ∧ s.timedOut = true ∧ t = abort s) ∨
    (∃ c i a l d, s.seq = .run c (2 * i) ∧ i < 8 ∧ (i = 0 → s.initd = true) ∧
      (i ≠ 0 → s.timedOut = false) ∧ s.line.transmit probeFrame s.draws = some (a, l, d) ∧
      t = afterTransmit probeFrame a l d (readSlot i s)) ∨
    (∃ c i, s.seq = .run c (2 * i + 1) ∧ i < 8 ∧ s.timedOut = false ∧ t = serialReceive s) ∨
    (∃ c, s.seq = .run c 16 ∧ s.timedOut = false ∧
      t = finish { readSlot 8 s with data := (readSlot 8 s).shift }) := by
  rcases busStep_next_cases h with h | h | ⟨c, k, hs, h0, h1, h⟩
  · exact .inl h
  · exact .inr (.inl h)
  · simp only at h
    split at h
    · next hk =>
      split at h
      · cases h
        obtain ⟨i, rfl⟩ : ∃ i, k = 2 * i + 1 := ⟨k / 2, by omega⟩
        exact .inr (.inr (.inr (.inl ⟨c, i, hs, by omega, h1 (by omega), rfl⟩)))
      · cases h
    · next hk =>
      obtain ⟨i, rfl⟩ : ∃ i, k = 2 * i := ⟨k / 2, by omega⟩
      have hi : 2 * i / 2 = i := by omega
      rw [hi] at h
      split at h
      · obtain ⟨a, l, d, ht, rfl⟩ := (serialTransmit_next_iff _ _ _).1 h
        exact .inr (.inr (.inl ⟨c, i, a, l, d, hs, by omega, fun e => h0 (by omega),
          fun e => h1 (by omega), ht, rfl⟩))
      · split at h
        · next h16 =>
          obtain rfl : i = 8 := by omega
          cases h
          exact .inr (.inr (.inr (.inr ⟨c, hs, h1 (by decide), rfl⟩)))
        · cases h

/-- CRCCLR is its completion step (44_checksum.md R83). -/
theorem execCrcclr_next_cases {s t : State} (h : execCrcclr s = .next t) :
    ∃ c, s.seq = .run c 0 ∧ t = finish { s with crc := 0x00#8 } := by
  rcases e : s.seq with _ | ⟨c, _ | k⟩ <;> simp [execCrcclr, plainStep, e] at h
  exact ⟨c, rfl, h.symm⟩

/-- CRCUPD is its completion step (44_checksum.md R84). -/
theorem execCrcupd_next_cases {s t : State} (h : execCrcupd s = .next t) :
    ∃ c, s.seq = .run c 0 ∧ t = finish { s with crc := crcFold s.crc s.data } := by
  rcases e : s.seq with _ | ⟨c, _ | k⟩ <;> simp [execCrcupd, plainStep, e] at h
  exact ⟨c, rfl, h.symm⟩

/-- An illegal byte has one Core step (60_exceptions.md R93). -/
theorem illegalStep_next_cases {s t : State} (h : illegalStep s = .next t) :
    ∃ c, s.seq = .run c 0 ∧ t = endWithError .illegalCmd s := by
  rcases e : s.seq with _ | ⟨c, _ | k⟩ <;> simp [illegalStep, e] at h
  exact ⟨c, rfl, h.symm⟩

/-- Everything the Core's turn can do (60_exceptions.md R98, R99). -/
theorem coreTurn_next_cases {s t : State} (h : coreTurn s = .next t) :
    (s.seq = .idle ∧ t = s) ∨
    (∃ c e, s.seq = .run c 0 ∧ decodeByte c = .error e ∧ t = endWithError .illegalCmd s) ∨
    (∃ c k i, s.seq = .run c k ∧ decodeByte c = .ok i ∧ exec i s = .next t) := by
  rcases hs : s.seq with _ | ⟨c, k⟩
  · rw [coreTurn_idle hs] at h
    cases h
    exact .inl ⟨rfl, rfl⟩
  · rcases hd : decodeByte c with e | i
    · rw [coreTurn_illegal hs hd] at h
      obtain ⟨c', h1, rfl⟩ := illegalStep_next_cases h
      cases hs.symm.trans h1
      exact .inr (.inl ⟨c, e, rfl, hd, rfl⟩)
    · exact .inr (.inr ⟨c, k, i, rfl, hd, coreTurn_run hs hd ▸ h⟩)

/-- Everything a step can do: a Core turn, a reset, a host access or a poll (20_memory.md R48). -/
theorem step_next_cases {s t : State} (h : step s = .next t) :
    (s.events = [] ∧ coreTurn s = .next t) ∨
    (∃ es, s.events = .core :: es ∧ coreTurn { s with events := es } = .next t) ∨
    (∃ es, s.events = .hardwareReset :: es ∧ t = hardwareReset { s with events := es }) ∨
    (∃ acc es, s.events = .host acc :: es ∧ hostAccess acc { s with events := es } = .next t) ∨
    (∃ es, s.events = .wait :: es ∧ waitPoll { s with events := es } = .next t) := by
  have he : reservedErr s.err = false := by
    rcases e : reservedErr s.err with _ | _
    · rfl
    · simp [step, e] at h
  rw [step_of_err he] at h
  rcases hev : s.events with _ | ⟨e, es⟩
  · exact .inl ⟨rfl, move_nil hev ▸ h⟩
  · rw [move_cons hev] at h
    rcases e with acc | _ | _ | _
    · exact .inr (.inr (.inr (.inl ⟨acc, es, rfl, h⟩)))
    · exact .inr (.inr (.inr (.inr ⟨es, rfl, h⟩)))
    · exact .inr (.inl ⟨es, rfl, h⟩)
    · cases h
      exact .inr (.inr (.inl ⟨es, rfl, rfl⟩))

end Sys2Proof.Machine
end

