-- ==== Sys2Proof/Laws/PerInstr.lean ====
section
/-! SUPPORT. A fact about each instruction as syntax, one lemma per constructor: its command byte
is a legal `CMD8` (30_encoding.md R52, R54). -/

namespace Sys2Proof.Laws.LegalByte

/-- The command byte has `RSV` 0 and a legal `OP`. -/
def Statement (i : Instr) : Prop := (Cmd8.ofByte (encodeByte i)).wellFormed = true

theorem init : Statement .init := by unfold Statement; decide
theorem owreset : Statement .owreset := by unfold Statement; decide
theorem wbit : Statement .wbit := by unfold Statement; decide
theorem rbit : Statement .rbit := by unfold Statement; decide
theorem wbyte : Statement .wbyte := by unfold Statement; decide
theorem rbyte : Statement .rbyte := by unfold Statement; decide
theorem crcclr : Statement .crcclr := by unfold Statement; decide
theorem crcupd : Statement .crcupd := by unfold Statement; decide

end Sys2Proof.Laws.LegalByte
end

