-- ==== Sys2Proof/Tests/Slice0.lean ====
section
/-! SUPPORT. Tests and witnesses. The expected results are the spec's: 95_test_vectors.md where a
`V`, `S` or `P` number is named, else the table or pseudocode of the rule named. The witnesses show that
the hypotheses of the statements can be met together. -/

namespace Sys2Proof.Tests

open Sys2Proof.Machine

/-! ## Encoding: words written out from 30_encoding.md R52 and R54 -/

theorem test_decode_init : decodeByte 0b00000001#8 = .ok .init := by rfl
theorem test_decode_owreset : decodeByte 0b00000010#8 = .ok .owreset := by rfl
theorem test_decode_wbit : decodeByte 0b00000011#8 = .ok .wbit := by rfl
theorem test_decode_rbit : decodeByte 0b00000100#8 = .ok .rbit := by rfl
theorem test_decode_wbyte : decodeByte 0b00000101#8 = .ok .wbyte := by rfl
theorem test_decode_rbyte : decodeByte 0b00000110#8 = .ok .rbyte := by rfl
theorem test_decode_crcclr : decodeByte 0b00000111#8 = .ok .crcclr := by rfl
theorem test_decode_crcupd : decodeByte 0b00001000#8 = .ok .crcupd := by rfl

/-- A cleared write is no command (30_encoding.md R55). -/
theorem test_decode_zero : decodeByte 0b00000000#8 = .error (.illegalOpcode 0x00#8) := by rfl

/-- V68: the first opcode past the table. -/
theorem test_decode_nine : decodeByte 0b00001001#8 = .error (.illegalOpcode 0x09#8) := by rfl

/-- V69: `OP` of INIT with `RSV` not 0. -/
theorem test_decode_rsv : decodeByte 0b00010001#8 = .error (.reservedBits 0x11#8) := by rfl

/-- Every command is one byte, and the next byte is left (30_encoding.md R52). -/
theorem test_decode_rest : decode [0x05#8, 0xFF#8] = .ok (.wbyte, [0xFF#8]) := by rfl

theorem test_table_word : decodeTableWord 8 0b00000110 = some .rbyte := by decide

/-! ## Well-formedness: each check refuses an ill-formed term -/

theorem test_wf_rsv : Cmd8.wellFormed ⟨1#4, 1#4⟩ = false := by decide
theorem test_wf_op_zero : Cmd8.wellFormed ⟨0#4, 0#4⟩ = false := by decide
theorem test_wf_op_nine : Cmd8.wellFormed ⟨0#4, 9#4⟩ = false := by decide
theorem test_wf_op_eight : Cmd8.wellFormed ⟨0#4, 8#4⟩ = true := by decide
theorem test_wf_wbit_two : SourceLine.wellFormed (.command .wbit (some 2)) = false := by decide
theorem test_wf_wbyte_256 : SourceLine.wellFormed (.command .wbyte (some 256)) = false := by decide
theorem test_wf_crcupd_256 : SourceLine.wellFormed (.command .crcupd (some 256)) = false := by decide
theorem test_wf_crcupd_none : SourceLine.wellFormed (.command .crcupd none) = false := by decide
theorem test_wf_init_operand : SourceLine.wellFormed (.command .init (some 0)) = false := by decide
theorem test_wf_wbytes : SourceLine.wellFormed (.wbytes [0, 256]) = false := by decide
theorem test_wf_crc : SourceLine.wellFormed (.crc [256]) = false := by decide
theorem test_wf_hw_address : SourceLine.wellFormed (.hw 4 0) = false := by decide
theorem test_wf_hw_value : SourceLine.wellFormed (.hw 3 256) = false := by decide
theorem test_wf_hr_address : SourceLine.wellFormed (.hr 4) = false := by decide

/-! ## The assembler (30_encoding.md R62, R63) -/

/-- `WBYTE 0xCC ; c` is `W 1:CC`, `W 0:05` (P3). -/
theorem test_assemble_wbyte :
    (parseLine ['W', 'B', 'Y', 'T', 'E', ' ', '0', 'x', 'C', 'C', ' ', ';', ' ', 'c']).bind assembleLine =
      some [hw 1 0xCC#8, hw 0 0x05#8] := by decide

/-- `HW 1, 0x55` is `W 1:55` (P5). -/
theorem test_assemble_hw :
    (parseLine ['H', 'W', ' ', '1', ',', ' ', '0', 'x', '5', '5']).bind assembleLine =
      some [hw 1 0x55#8] := by decide

/-- A mnemonic in lower case is none that is listed. -/
theorem test_parse_lower_case : parseLine ['i', 'n', 'i', 't'] = none := by decide

theorem test_parse_out_of_range : parseLine ['W', 'B', 'I', 'T', ' ', '2'] = none := by decide

/-! ## Small states -/

/-- The next state, seen through `f`. -/
def look {α : Type} (f : State → α) : Result → Option α
  | .next t => some (f t)
  | .fault _ => none
  | .refused _ => none

/-- STATUS `0x40`: idle after INIT, DATA `d`, the Line `l`, the schedule `es`. -/
def ready (d : Byte) (l : Line) (es : List Event) : State :=
  { State.reset with data := d, initd := true, periph := some .data, line := l, events := es }

/-- After `k` serial calls of command `c` at the rate `b`, from `ready`, with nothing scheduled. -/
def mid (c : Byte) (k : Nat) (b : Rate) (d : Byte) (l : Line) : State :=
  { ready d l [] with cmd := c, seq := .run c k, baudSel := b, periph := some b }

/-! ## One step each -/

/-- V3: right after the accept of INIT from STATUS `0x42`. -/
theorem test_init_accept :
    look State.statusByte (step { ready 0xE0#8 (.listed [] []) [hw 0 0x01#8] with present := true }) =
      some 0x41#8 := by decide

/-- V1: the completion step of INIT. -/
theorem test_init_completes :
    look State.statusByte (step { mid 0x01#8 1 .data 0x00#8 (.listed [] []) with initd := false }) =
      some 0x40#8 := by decide

/-- V4: STATUS after Core step 1 of OWRESET. -/
theorem test_owreset_first_step :
    look State.statusByte (step (mid 0x02#8 0 .data 0x77#8 (.listed [] []))) = some 0x61#8 := by decide

/-- V8: a readback of `0xF1` is presence. -/
theorem test_owreset_presence :
    look (fun t => (t.data, t.statusByte))
      (step { mid 0x02#8 4 .data 0x77#8 (.listed [] []) with rx := 0xF1#8 }) =
      some (0xF1#8, 0x42#8) := by decide

/-- V11: a readback of `0xF0` is no device, and clears an earlier presence. -/
theorem test_owreset_no_device :
    look (fun t => (t.data, t.statusByte))
      (step { mid 0x02#8 4 .data 0x77#8 (.listed [] []) with rx := 0xF0#8, present := true }) =
      some (0xF0#8, 0x44#8) := by decide

/-- V12: the abort step of OWRESET restores the data rate and clears PRESENT. -/
theorem test_owreset_abort :
    look (fun t => (t.data, t.statusByte, t.trace))
      (step { mid 0x02#8 2 .reset 0x77#8 (.listed [] []) with timedOut := true, present := true }) =
      some (0x77#8, 0x48#8, [.configure .data]) := by decide

/-- V15: only bit 0 of DATA counts. -/
theorem test_wbit_bit_zero :
    look State.trace (step (mid 0x03#8 0 .data 0xFE#8 (.listed [.ok] []))) =
      some [.transmit .data 0x00#8 .ok] := by decide

/-- V17: the abort step of WBIT. -/
theorem test_wbit_abort :
    look (fun t => (t.data, t.statusByte))
      (step { mid 0x03#8 1 .data 0x01#8 (.listed [] []) with timedOut := true }) =
      some (0x01#8, 0x48#8) := by decide

/-- V20: bit 0 of the readback is the result. -/
theorem test_rbit_one :
    look State.data (step { mid 0x04#8 2 .data 0x55#8 (.listed [] []) with rx := 0x01#8 }) =
      some 0x01#8 := by decide

/-- V21: bits 7:1 of the readback never matter. -/
theorem test_rbit_zero :
    look State.data (step { mid 0x04#8 2 .data 0x55#8 (.listed [] []) with rx := 0xFC#8 }) =
      some 0x00#8 := by decide

/-- V26: bit 0 goes first. -/
theorem test_wbyte_first_bit :
    look State.trace (step (mid 0x05#8 0 .data 0x01#8 (.listed [.ok] []))) =
      some [.transmit .data 0xFF#8 .ok] := by decide

/-- V30: the last of the eight frames of `0x80`; SHIFT holds `0x02` after six shifts. -/
theorem test_wbyte_last_bit :
    look State.trace (step { mid 0x05#8 7 .data 0x80#8 (.listed [.ok] []) with shift := 0x02#8 }) =
      some [.transmit .data 0xFF#8 .ok] := by decide

/-- V32: the eighth bit of `1,0,1,1,0,0,0,0`, read after seven that left SHIFT at `0x1A`. -/
theorem test_rbyte_completes :
    look (fun t => (t.data, t.statusByte))
      (step { mid 0x06#8 16 .data 0x33#8 (.listed [] []) with shift := 0x1A#8, rx := 0x02#8 }) =
      some (0x0D#8, 0x40#8) := by decide

/-- V34: a set eighth bit lands in bit 7. -/
theorem test_rbyte_bit_seven :
    look State.data (step { mid 0x06#8 16 .data 0x33#8 (.listed [] []) with rx := 0xFF#8 }) =
      some 0x80#8 := by decide

/-- V62. -/
theorem test_crcclr :
    look State.crc (step { mid 0x07#8 0 .data 0x00#8 (.listed [] []) with crc := 0x9D#8 }) =
      some 0x00#8 := by decide

/-- V60: CRCUPD needs no INIT. -/
theorem test_crcupd :
    look (fun t => (t.crc, t.statusByte))
      (step { mid 0x08#8 0 .data 0x10#8 (.listed [] []) with initd := false }) =
      some (0x9D#8, 0x00#8) := by decide

/-- V63: a fold without CRCCLR goes on from the old checksum. -/
theorem test_crcupd_continues :
    look State.crc (step { mid 0x08#8 0 .data 0x10#8 (.listed [] []) with crc := 0x9D#8 }) =
      some 0x71#8 := by decide

/-- V39: the accumulator after each iteration of one fold. -/
theorem test_fold_iterations :
    (List.range 9).map (fun n => (crcBits n (0x00#8, 0x01#8)).1) =
      [0x00#8, 0x8C#8, 0x46#8, 0x23#8, 0x9D#8, 0xC2#8, 0x61#8, 0xBC#8, 0x5E#8] := by decide

/-- V54: the second byte of a block, folded after the first one gave `0x5E`. -/
theorem test_fold_second_byte : crcFold 0x5E#8 0x02#8 = 0x78#8 := by decide

/-- V51. -/
theorem test_crc_of_block : crcOf [0xFF#8] = 0x35#8 := by decide

/-- V65: a bus command from reset is NOT_INIT. -/
theorem test_not_init :
    look (fun t => (t.cmd, t.statusByte, t.trace)) (step (State.reset.withFetchWord 8 0x02)) =
      some (0x02#8, 0x10#8, []) := by decide

/-- V70: ILLEGAL_CMD beats NOT_INIT. -/
theorem test_illegal :
    look (fun t => (t.cmd, t.statusByte)) (step (State.reset.withFetchWord 8 0xF2)) =
      some (0xF2#8, 0x0C#8) := by decide

/-- V72: a write of DATA during INIT is lost and sets HOSTERR. -/
theorem test_busy_write :
    look (fun t => (t.data, t.hosterr))
      (step { mid 0x01#8 1 .data 0x00#8 (.listed [] []) with events := [hw 1 0x55#8] }) =
      some (0x00#8, true) := by decide

/-- V75: STATUS is read-only. -/
theorem test_write_status :
    look State.statusByte (step (ready 0x00#8 (.listed [] []) [hw 2 0xFF#8])) = some 0x40#8 := by decide

/-- V77: a reset inside OWRESET; the peripheral's rate is then unknown. -/
theorem test_hardware_reset :
    look (fun t => (t.statusByte, t.baudSel, t.periph))
      (step { mid 0x02#8 1 .reset 0x77#8 (.listed [] []) with events := [.hardwareReset] }) =
      some (0x00#8, .data, none) := by decide

/-- P3: RBYTE's first probe appends the last bit that WBYTE sent to the queue of `BITSTORE`. -/
theorem test_bitstore_pending :
    (Line.bitStore [false, true] true).transmit 0xFF#8 0 =
      some (.ok, .bitStore [false, true, true] true, 0) := by decide

/-! ## States that meet the invariant -/

theorem ready_inv (d : Byte) (l : Line) (es : List Event) : OwcInv (ready d l es) where
  errProduced := (by decide : reservedErr 0#3 = false)
  seqInRange := by simp [SeqInRange, ready, State.reset]
  baudFollowsSeq := by simp [BaudFollowsSeq, ready, State.reset]
  periphAgrees := by simp [PeriphAgrees, ready, State.reset]
  errTells := by simp [ErrTells, ready, State.reset, ErrCode.code]
  presentAfterInit := by simp [ready, State.reset]
  timeoutPending := by simp [TimeoutPending, ready, State.reset]
  traceLegal := by simp [ready, State.reset]
  receivesPaired := by simp [ReceivesPaired, ready, State.reset]
  receiveReady := by simp [ReceiveReady, ready, State.reset]

/-- A command in progress, where its next serial call is no receive. -/
theorem mid_inv {i : Instr} {c : Byte} {k : Nat} {b : Rate} (d : Byte) (l : Line)
    (hc : decodeByte c = .ok i) (hk : k ≤ i.serialCalls) (hr : i.receivesAfter k = false)
    (hb : b = .reset ↔ c = 0x02#8 ∧ 1 ≤ k ∧ k ≤ 3) : OwcInv (mid c k b d l) where
  errProduced := (by decide : reservedErr 0#3 = false)
  seqInRange := by simp [SeqInRange, mid, ready, hc, hk]
  baudFollowsSeq := by
    simp only [BaudFollowsSeq, mid, Seq.run.injEq, encodeByte_owreset, hb]
    exact ⟨fun ⟨h1, h2⟩ => ⟨k, ⟨h1, rfl⟩, h2⟩, fun ⟨_, ⟨h1, h2⟩, h3⟩ => ⟨h1, h2 ▸ h3⟩⟩
  periphAgrees := by simp [PeriphAgrees, mid]
  errTells := by simp [ErrTells, mid, ready, State.reset, ErrCode.code]
  presentAfterInit := by simp [mid, ready, State.reset]
  timeoutPending := by simp [TimeoutPending, mid, ready, State.reset]
  traceLegal := by simp [mid, ready, State.reset]
  receivesPaired := by simp [ReceivesPaired, mid, ready, State.reset]
  receiveReady := by
    intro c' k' i' h1 h2 h3
    simp only [mid, Seq.run.injEq] at h1
    rw [← h1.1, hc] at h2
    cases h2
    rw [← h1.2, hr] at h3
    cases h3

/-- OWRESET just accepted by an initialized OWC. -/
theorem mid_owreset_inv (d : Byte) (l : Line) : OwcInv (mid 0x02#8 0 .data d l) :=
  mid_inv (i := .owreset) d l rfl (by decide) (by decide) (by decide)

/-- The first INIT before its completion step. -/
theorem first_init_inv (d : Byte) (l : Line) : OwcInv { mid 0x01#8 1 .data d l with initd := false } where
  errProduced := (by decide : reservedErr 0#3 = false)
  seqInRange := ⟨rfl, by decide, fun h => by cases h⟩
  baudFollowsSeq := by simp [BaudFollowsSeq, mid, encodeByte_owreset]
  periphAgrees := by simp [PeriphAgrees, mid]
  errTells := by simp [ErrTells, mid, ready, State.reset, ErrCode.code]
  presentAfterInit := by simp [mid, ready, State.reset]
  timeoutPending := by simp [TimeoutPending, mid, ready, State.reset]
  traceLegal := by simp [mid, ready, State.reset]
  receivesPaired := by simp [ReceivesPaired, mid, ready, State.reset]
  receiveReady := by
    intro c' k' i' h1 h2 h3
    simp only [mid, Seq.run.injEq] at h1
    rw [← h1.1] at h2
    cases h2
    cases h3

/-! ## Witnesses: the hypotheses of each statement can be met together -/

/-- A Line that times out at the first transmit. -/
def deaf : Line := .listed [.timeout] []

/-- A Line that answers eight probes, `0x01` each. -/
def quiet : Line := .listed (List.replicate 8 .ok) (List.replicate 8 (.frame 0x01#8))

theorem witness_ResetEventRestoresResetState :
    reservedErr (mid 0x02#8 1 .reset 0x77#8 quiet).err = false ∧
    { mid 0x02#8 1 .reset 0x77#8 quiet with events := [.hardwareReset] }.events = .hardwareReset :: [] :=
  ⟨by decide, rfl⟩

theorem witness_HostReadReturnsTheRegister :
    reservedErr State.reset.err = false ∧ ∀ a, (ready 0x00#8 quiet [hr a]).events = hr a :: [] :=
  ⟨by decide, fun _ => rfl⟩

theorem witness_AcceptStartsCommand :
    reservedErr (ready 0x00#8 quiet [hw 0 0x01#8]).err = false ∧
    (ready 0x00#8 quiet [hw 0 0x01#8]).events = hw 0 0x01#8 :: [] ∧
    (ready 0x00#8 quiet [hw 0 0x01#8]).seq = .idle ∧
    (mid 0x02#8 1 .reset 0x00#8 quiet).seq ≠ .idle ∧
    { mid 0x02#8 1 .reset 0x00#8 quiet with events := [hw 0 0xFF#8] }.events = hw 0 0xFF#8 :: [] :=
  ⟨by decide, rfl, rfl, by decide, rfl⟩

theorem witness_HostWriteEffects :
    reservedErr (ready 0x00#8 quiet []).err = false ∧
    (∀ a, (ready 0x00#8 quiet [hw a 0xFF#8]).events = hw a 0xFF#8 :: []) ∧
    (ready 0x00#8 quiet [hw 0 0xFF#8]).seq = .idle ∧ (mid 0x05#8 1 .data 0x00#8 quiet).seq ≠ .idle ∧
    { mid 0x05#8 1 .data 0x00#8 quiet with events := [hw 1 0xFF#8] }.events = hw 1 0xFF#8 :: [] ∧
    ∃ t, step (ready 0x00#8 quiet [hw 0 0xFF#8]) = .next t ∧ t.seq ≠ .idle :=
  ⟨by decide, fun _ => rfl, rfl, by decide, rfl, _, rfl, by decide⟩

theorem witness_BusyHostWriteOnlySetsHosterr :
    reservedErr (mid 0x05#8 8 .data 0x00#8 quiet).err = false ∧
    (mid 0x05#8 8 .data 0x00#8 quiet).seq ≠ .idle ∧
    ∀ a, { mid 0x05#8 8 .data 0x00#8 quiet with events := [hw a 0xFF#8] }.events = hw a 0xFF#8 :: [] :=
  ⟨by decide, by decide, fun _ => rfl⟩

theorem witness_OtherHostAccessesAreRefused :
    reservedErr State.reset.err = false ∧
    (ready 0x00#8 quiet [.host (.write 9 0 0x00#8)]).events = .host (.write 9 0 0x00#8) :: [] ∧
    (ready 0x00#8 quiet [.host (.read 8 4)]).events = .host (.read 8 4) :: [] ∧ 9 ≠ 8 ∧ 4 ≤ 4 :=
  ⟨by decide, rfl, rfl, by decide, le_refl 4⟩

/-- The boundary bytes `0x00` and `0x09`. -/
theorem witness_IllegalCommandEndsAtDispatch (c : Byte) (h : c = 0x00#8 ∨ c = 0x09#8) :
    reservedErr (mid c 0 .data 0x00#8 quiet).err = false ∧ (mid c 0 .data 0x00#8 quiet).events = [] ∧
    { mid c 0 .data 0x00#8 quiet with events := [.core] }.events = .core :: [] ∧
    (mid c 0 .data 0x00#8 quiet).seq = .run c 0 ∧ (c.toNat = 0 ∨ 9 ≤ c.toNat) := by
  refine ⟨(by decide : reservedErr 0#3 = false), rfl, rfl, rfl, ?_⟩
  rcases h with rfl | rfl <;> decide

theorem witness_IllegalCommandChangesOnlyCmdAndErr :
    OwcInv (ready 0x00#8 quiet [hw 0 0x09#8]) ∧ (ready 0x00#8 quiet [hw 0 0x09#8]).seq = .idle ∧
    (ready 0x00#8 quiet [hw 0 0x09#8]).events = [hw 0 0x09#8] ∧ 9 ≤ (0x09#8).toNat :=
  ⟨ready_inv _ _ _, rfl, rfl, by decide⟩

theorem witness_BusCommandNeedsInit :
    { State.reset with seq := .run 0x02#8 0 }.seq = .run 0x02#8 0 ∧
    { State.reset with seq := .run 0x02#8 0 }.initd = false := ⟨rfl, rfl⟩

theorem witness_TimeoutAbortsTheCommand :
    (∃ s : State, s.seq = .run 0x02#8 (1 + 1) ∧ s.timedOut = true ∧ s.baudSel = .reset) ∧
    (∃ s : State, s.seq = .run 0x03#8 (0 + 1) ∧ s.timedOut = true ∧ s.baudSel = .data) :=
  ⟨⟨{ mid 0x02#8 2 .reset 0x77#8 quiet with timedOut := true }, rfl, rfl, rfl⟩,
    ⟨{ mid 0x03#8 1 .data 0x77#8 quiet with timedOut := true }, rfl, rfl, rfl⟩⟩

/-- V9. -/
theorem witness_AbortIsPrecise_owreset :
    OwcInv (mid 0x02#8 0 .data 0x77#8 deaf) ∧ (mid 0x02#8 0 .data 0x77#8 deaf).events = [] ∧
    (mid 0x02#8 0 .data 0x77#8 deaf).seq = .run 0x02#8 0 ∧
    ∃ t, steps 3 (mid 0x02#8 0 .data 0x77#8 deaf) = .next t ∧ t.err = 2#3 :=
  ⟨mid_owreset_inv _ _, rfl, rfl, _, rfl, rfl⟩

/-- V17. -/
theorem witness_AbortIsPrecise_wbit :
    OwcInv (mid 0x03#8 0 .data 0x01#8 deaf) ∧
    ∃ t, steps 2 (mid 0x03#8 0 .data 0x01#8 deaf) = .next t ∧ t.err = 2#3 :=
  ⟨mid_inv (i := .wbit) _ _ rfl (by decide) (by decide) (by decide), _, rfl, rfl⟩

theorem witness_StepRunsTheDecodedCommand :
    reservedErr (mid 0x08#8 0 .data 0x00#8 quiet).err = false ∧
    (mid 0x08#8 0 .data 0x00#8 quiet).seq = .run 0x08#8 0 ∧ decode [0x08#8] = .ok (.crcupd, []) ∧
    (mid 0x08#8 0 .data 0x00#8 quiet).events = [] ∧
    { mid 0x08#8 0 .data 0x00#8 quiet with events := [.core] }.events = .core :: [] :=
  ⟨by decide, rfl, rfl, rfl, rfl⟩

theorem witness_InitCoreSteps :
    (∃ s : State, s.seq = .run 0x01#8 0) ∧ (∃ s : State, s.seq = .run 0x01#8 1) :=
  ⟨⟨mid 0x01#8 0 .data 0x00#8 quiet, rfl⟩, ⟨mid 0x01#8 1 .data 0x00#8 quiet, rfl⟩⟩

theorem witness_OwresetCoreSteps_dispatch :
    (mid 0x02#8 0 .data 0x00#8 quiet).seq = .run 0x02#8 0 ∧ (mid 0x02#8 0 .data 0x00#8 quiet).initd = true :=
  ⟨rfl, rfl⟩

theorem witness_OwresetCoreSteps_calls :
    (mid 0x02#8 1 .reset 0x00#8 quiet).timedOut = false ∧
    (∃ a l d, quiet.transmit 0xF0#8 0 = some (a, l, d)) ∧
    (∃ f l d, quiet.receive 0 = (.frame f, l, d)) ∧
    (∃ l d, (Line.listed [] [.timeout]).receive 0 = (.timeout, l, d)) ∧
    (mid 0x02#8 3 .reset 0x00#8 quiet).seq = .run 0x02#8 3 :=
  ⟨rfl, ⟨_, _, _, rfl⟩, ⟨_, _, _, rfl⟩, ⟨_, _, rfl⟩, rfl⟩

theorem witness_OwresetCoreSteps_completion :
    ∀ r : Byte, { mid 0x02#8 4 .data 0x00#8 quiet with rx := r }.seq = .run 0x02#8 4 ∧
      { mid 0x02#8 4 .data 0x00#8 quiet with rx := r }.timedOut = false ∧
      { mid 0x02#8 4 .data 0x00#8 quiet with rx := r }.rx = r :=
  fun _ => ⟨rfl, rfl, rfl⟩

theorem witness_ResetFrameOnBitStoreIsRefused :
    (mid 0x02#8 1 .reset 0x00#8 (.bitStore [] false)).seq = .run 0x02#8 1 ∧
    (mid 0x02#8 1 .reset 0x00#8 (.bitStore [] false)).timedOut = false ∧
    (mid 0x02#8 1 .reset 0x00#8 (.bitStore [] false)).line = .bitStore [] false := ⟨rfl, rfl, rfl⟩

theorem witness_WbitCoreSteps :
    (mid 0x03#8 0 .data 0xFE#8 quiet).seq = .run 0x03#8 0 ∧ (mid 0x03#8 0 .data 0xFE#8 quiet).initd = true ∧
    (mid 0x03#8 1 .data 0xFE#8 quiet).seq = .run 0x03#8 1 ∧
    (mid 0x03#8 1 .data 0xFE#8 quiet).timedOut = false := ⟨rfl, rfl, rfl, rfl⟩

theorem witness_RbitCoreSteps :
    (mid 0x04#8 0 .data 0x55#8 quiet).seq = .run 0x04#8 0 ∧ (mid 0x04#8 0 .data 0x55#8 quiet).initd = true ∧
    (mid 0x04#8 1 .data 0x55#8 quiet).timedOut = false ∧
    (∃ f l d, quiet.receive 0 = (.frame f, l, d)) ∧
    (∃ l d, (Line.listed [] [.timeout]).receive 0 = (.timeout, l, d)) ∧
    (mid 0x04#8 2 .data 0x55#8 quiet).seq = .run 0x04#8 2 :=
  ⟨rfl, rfl, rfl, ⟨_, _, _, rfl⟩, ⟨_, _, rfl⟩, rfl⟩

/-- The slots 0, 7 and 8. -/
theorem witness_WbyteCoreSteps (k : Nat) (h : k = 0 ∨ k = 7 ∨ k = 8) :
    ∃ v : Byte, (mid 0x05#8 k .data 0xA5#8 quiet).seq = .run 0x05#8 k ∧
      (k = 0 → (mid 0x05#8 k .data 0xA5#8 quiet).initd = true ∧ v = (mid 0x05#8 k .data 0xA5#8 quiet).data) ∧
      (k ≠ 0 → (mid 0x05#8 k .data 0xA5#8 quiet).timedOut = false ∧
        v = (mid 0x05#8 k .data 0xA5#8 quiet).shift >>> 1) := by
  rcases h with rfl | rfl | rfl
  · exact ⟨0xA5#8, rfl, fun _ => ⟨rfl, rfl⟩, fun h => absurd rfl h⟩
  · exact ⟨_, rfl, fun h => absurd h (by decide), fun _ => ⟨rfl, rfl⟩⟩
  · exact ⟨_, rfl, fun h => absurd h (by decide), fun _ => ⟨rfl, rfl⟩⟩

/-- The probes 0 and 7, a readback and a timeout of the last slot, and the completion step. -/
theorem witness_RbyteCoreSteps :
    (mid 0x06#8 0 .data 0x33#8 quiet).seq = .run 0x06#8 (2 * 0) ∧
    (mid 0x06#8 0 .data 0x33#8 quiet).initd = true ∧
    (mid 0x06#8 14 .data 0x33#8 quiet).seq = .run 0x06#8 (2 * 7) ∧
    (mid 0x06#8 14 .data 0x33#8 quiet).timedOut = false ∧
    (mid 0x06#8 15 .data 0x33#8 quiet).seq = .run 0x06#8 (2 * 7 + 1) ∧
    (∃ f l d, quiet.receive 0 = (.frame f, l, d)) ∧
    (∃ l d, (Line.listed [] [.timeout]).receive 0 = (.timeout, l, d)) ∧
    (mid 0x06#8 16 .data 0x33#8 quiet).seq = .run 0x06#8 16 :=
  ⟨rfl, rfl, rfl, rfl, rfl, ⟨_, _, _, rfl⟩, ⟨_, _, rfl⟩, rfl⟩

theorem witness_CrcclrClearsCrc :
    (mid 0x07#8 0 .data 0x00#8 quiet).seq = .run 0x07#8 0 ∧ reservedErr State.reset.err = false ∧
    { State.reset with events := [hw 0 0x07#8] }.seq = .idle ∧
    { State.reset with events := [hw 0 0x07#8] }.events = [hw 0 0x07#8] := ⟨rfl, by decide, rfl, rfl⟩

theorem witness_CrcupdFoldsData :
    (mid 0x08#8 0 .data 0x10#8 quiet).seq = .run 0x08#8 0 ∧ reservedErr State.reset.err = false ∧
    { State.reset with events := [hw 0 0x08#8] }.seq = .idle ∧
    { State.reset with events := [hw 0 0x08#8] }.events = [hw 0 0x08#8] := ⟨rfl, by decide, rfl, rfl⟩

/-- A fold, and a host write of CRC while idle. -/
theorem witness_CrcHasThreeWriters :
    (∃ t, step (mid 0x08#8 0 .data 0x10#8 quiet) = .next t ∧ t.crc = 0x9D#8) ∧
    (∃ t, step (mid 0x07#8 0 .data 0x10#8 quiet) = .next t) ∧
    (∃ t, step { mid 0x08#8 0 .data 0x10#8 quiet with events := [.hardwareReset] } = .next t) ∧
    (∃ t, step (ready 0x00#8 quiet [hw 3 0xFF#8]) = .next t ∧
      (ready 0x00#8 quiet [hw 3 0xFF#8]).seq ≠ .run 0x08#8 0) :=
  ⟨⟨_, rfl, rfl⟩, ⟨_, rfl⟩, ⟨_, rfl⟩, ⟨_, rfl, by decide⟩⟩

theorem witness_InitBringsUpTheTransport :
    reservedErr State.reset.err = false ∧ State.reset.seq = .idle ∧
    { State.reset with events := [hw 0 0x01#8] }.events = [hw 0 0x01#8] := ⟨by decide, rfl, rfl⟩

/-- What the whole-command statements over a listed Line assume. -/
theorem witness_WholeCommands (v : Byte) (l : Line) :
    OwcInv (ready 0x77#8 l [hw 0 v]) ∧ (ready 0x77#8 l [hw 0 v]).seq = .idle ∧
    (ready 0x77#8 l [hw 0 v]).initd = true ∧ (ready 0x77#8 l [hw 0 v]).events = [hw 0 v] ∧
    (ready 0x77#8 l [hw 0 v]).line = l :=
  ⟨ready_inv _ _ _, rfl, rfl, rfl, rfl⟩

theorem witness_OwresetReportsPresence :
    (ready 0x77#8 (.listed [.ok] [.frame 0xF1#8]) [hw 0 0x02#8]).line =
      .listed (.ok :: []) (.frame 0xF1#8 :: []) := rfl

theorem witness_OwresetTimeouts :
    (ready 0x77#8 deaf [hw 0 0x02#8]).line = .listed (.timeout :: []) [] ∧
    (ready 0x77#8 (.listed [.ok] [.timeout]) [hw 0 0x02#8]).line = .listed (.ok :: []) (.timeout :: []) :=
  ⟨rfl, rfl⟩

theorem witness_OwresetEndsAtDataRate :
    OwcInv (mid 0x02#8 0 .data 0x77#8 deaf) ∧ (mid 0x02#8 0 .data 0x77#8 deaf).events = [] ∧
    (mid 0x02#8 0 .data 0x77#8 deaf).seq = .run 0x02#8 0 ∧ (mid 0x02#8 0 .data 0x77#8 deaf).initd = true ∧
    ∀ q p, (mid 0x02#8 0 .data 0x77#8 deaf).line ≠ .bitStore q p :=
  ⟨mid_owreset_inv _ _, rfl, rfl, rfl, fun _ _ => by simp [mid, ready, deaf]⟩

theorem witness_WbyteSendsBitsLsbFirst :
    (ready 0xCC#8 quiet [hw 0 0x05#8]).line =
      .listed (List.replicate 8 .ok ++ []) (List.replicate 8 (.frame 0x01#8)) := rfl

/-- The first and the last bit. -/
theorem witness_WbyteStopsAtTheTimeout :
    0 < 8 ∧ 7 < 8 ∧ (ready 0xA5#8 deaf [hw 0 0x05#8]).line = .listed (List.replicate 0 .ok ++ .timeout :: []) [] ∧
    (ready 0xA5#8 (.listed (List.replicate 7 .ok ++ [.timeout]) []) [hw 0 0x05#8]).line =
      .listed (List.replicate 7 .ok ++ .timeout :: []) [] := ⟨by decide, by decide, rfl, rfl⟩

theorem witness_RbyteAssemblesLsbFirst :
    (List.replicate 8 0x01#8).length = 8 ∧ (ready 0x33#8 quiet [hw 0 0x06#8]).line =
      .listed (List.replicate 8 .ok ++ []) ((List.replicate 8 0x01#8).map .frame ++ []) := ⟨rfl, rfl⟩

theorem witness_CrcIsLinear : [0x01#8, 0x02#8].length = [0x80#8, 0x00#8].length := rfl

theorem witness_CrcProgramComputesChecksum :
    OwcInv (ready 0x00#8 quiet []) ∧ (∀ b ∈ [0, 255], b ≤ 255) ∧
    ∃ es, assembleLine (.crc [0, 255]) = some es ∧ OwcInv (ready 0x00#8 quiet es) ∧
      (ready 0x00#8 quiet es).seq = .idle ∧ (ready 0x00#8 quiet es).events = es :=
  ⟨ready_inv _ _ _, by decide, _, rfl, ready_inv _ _ _, rfl, rfl⟩

theorem witness_WriteThenReadGivesTheByteBack :
    255 ≤ 255 ∧ ∃ es,
      assembleProgram [.command .wbyte (some 255), .wait, .command .rbyte none, .wait] = some es ∧
      OwcInv (ready 0x00#8 (.bitStore [] false) es) ∧ OwcInv (ready 0x00#8 (.echo 0x00#8) es) ∧
      (ready 0x00#8 (.echo 0x00#8) es).initd = true ∧ (ready 0x00#8 (.echo 0x00#8) es).events = es :=
  ⟨le_refl _, _, rfl, ready_inv _ _ _, ready_inv _ _ _, rfl, rfl⟩

/-- The bytes at the limit that a line may carry, and the first ones past it. -/
theorem witness_AssemblerExpandsLines :
    assembleLine (.wbytes [255]) = some [hw 1 0xFF#8, hw 0 0x05#8, .wait] ∧
    assembleLine (.wbytes [0, 256]) = none ∧ assembleLine (.rbytes 1) = some [hw 0 0x06#8, .wait, hr 1] ∧
    assembleLine (.crc [255]) =
      some [hw 0 0x07#8, .wait, hw 1 0xFF#8, hw 0 0x08#8, .wait, hr 3] ∧
    assembleLine (.crc [0, 256]) = none := ⟨rfl, rfl, rfl, rfl, rfl⟩

/-- A busy OWC on `BITSTORE` and an idle one on `ECHO`. -/
theorem witness_WaitEnds :
    OwcInv (ready 0x00#8 (.echo 0x00#8) [.wait]) ∧ (ready 0x00#8 (.echo 0x00#8) [.wait]).events = .wait :: [] ∧
    (∀ q p, (ready 0x00#8 (.echo 0x00#8) [.wait]).line = .bitStore q p →
      (ready 0x00#8 (.echo 0x00#8) [.wait]).cmd ≠ 0x02#8) ∧
    (mid 0x05#8 0 .data 0x00#8 (.bitStore [] false)).cmd ≠ 0x02#8 :=
  ⟨ready_inv _ _ _, rfl, fun _ _ h => by simp [ready] at h, by decide⟩

theorem witness_StepKeepsInv :
    OwcInv (mid 0x02#8 0 .data 0x77#8 quiet) ∧ ∃ t, step (mid 0x02#8 0 .data 0x77#8 quiet) = .next t :=
  ⟨mid_owreset_inv _ _, _, rfl⟩

/-- INIT has completed; then WBIT and RBYTE, the first and the last command at the data rate. -/
theorem witness_IdleMeansDataRate :
    (∃ s, Reachable s ∧ s.busy = false ∧ s.initd = true) ∧
    (∃ s, Reachable s ∧ s.seq = .run 0x03#8 0) ∧ (∃ s, Reachable s ∧ s.seq = .run 0x06#8 0) :=
  ⟨⟨_, ⟨3, quiet, [hw 0 0x01#8], rfl⟩, rfl, rfl⟩, ⟨_, ⟨1, quiet, [hw 0 0x03#8], rfl⟩, rfl⟩,
    ⟨_, ⟨1, quiet, [hw 0 0x06#8], rfl⟩, rfl⟩⟩

/-- INIT, then the first three steps of OWRESET's accept, rate and frame. -/
theorem witness_FramesKeepTheirRates_reset :
    ∃ s, Reachable s ∧ .transmit .reset 0xF0#8 .ok ∈ s.trace :=
  ⟨_, ⟨6, quiet, [hw 0 0x01#8, .core, .core, hw 0 0x02#8], rfl⟩, by decide⟩

theorem witness_FramesKeepTheirRates_data :
    ∃ s, Reachable s ∧ .transmit .data 0x00#8 .ok ∈ s.trace :=
  ⟨_, ⟨5, quiet, [hw 0 0x01#8, .core, .core, hw 0 0x03#8], rfl⟩, by decide⟩

theorem witness_ReceivesFollowTransmits :
    ∃ s pre, Reachable s ∧ s.trace = pre ++ .receive (.frame 0x01#8) :: [] :=
  ⟨_, [.configure .data, .transmit .data 0xFF#8 .ok],
    ⟨6, quiet, [hw 0 0x01#8, .core, .core, hw 0 0x04#8], rfl⟩, rfl⟩

/-- NOT_INIT is a case that a run from reset reaches. -/
theorem witness_ErrTellsHowTheCommandEnded :
    ∃ s, Reachable s ∧ s.err = 4#3 :=
  ⟨_, ⟨2, quiet, [hw 0 0x02#8], rfl⟩, rfl⟩

theorem witness_NoReachableStateFaults : Reachable State.reset := ⟨0, .listed [] [], [], rfl⟩

theorem witness_EveryCommandEnds :
    OwcInv (mid 0x06#8 0 .data 0x33#8 quiet) ∧ (mid 0x06#8 0 .data 0x33#8 quiet).events = [] ∧
    (mid 0x06#8 0 .data 0x33#8 quiet).seq = .run 0x06#8 0 ∧ decode [0x06#8] = .ok (.rbyte, []) ∧
    ∀ q p, (mid 0x06#8 0 .data 0x33#8 quiet).line = .bitStore q p → Instr.rbyte ≠ .owreset :=
  ⟨mid_inv (i := .rbyte) _ _ rfl (by decide) (by decide) (by decide), rfl, rfl, rfl, fun _ _ _ => by decide⟩

theorem witness_CoreStepCounts :
    OwcInv (mid 0x02#8 0 .data 0x33#8 quiet) ∧ (mid 0x02#8 0 .data 0x33#8 quiet).events = [] ∧
    (mid 0x02#8 0 .data 0x33#8 quiet).seq = .run (encodeByte .owreset) 0 ∧
    (mid 0x02#8 0 .data 0x33#8 quiet).initd = true ∧ (mid 0x02#8 0 .data 0x33#8 quiet).line =
      .listed (List.replicate 8 .ok ++ []) ((List.replicate 8 0x01#8).map .frame ++ []) :=
  ⟨mid_owreset_inv _ _, rfl, rfl, rfl, rfl⟩

theorem witness_CoreStepFrame :
    OwcInv (mid 0x02#8 0 .data 0x77#8 quiet) ∧ decode [0x02#8] = .ok (.owreset, []) ∧
    ∃ t, exec .owreset (mid 0x02#8 0 .data 0x77#8 quiet) = .next t :=
  ⟨mid_owreset_inv _ _, rfl, _, rfl⟩

theorem witness_ResultsOnlyAtTheEnd :
    ∃ t, coreTurn (mid 0x06#8 0 .data 0x33#8 quiet) = .next t ∧ t.busy = true := ⟨_, rfl, rfl⟩

theorem witness_ChecksumAndTransportAreSeparate :
    ∃ t, exec .crcupd (mid 0x08#8 0 .data 0x10#8 quiet) = .next t ∧
      (mid 0x08#8 0 .data 0x10#8 quiet).crc = (mid 0x08#8 0 .data 0x10#8 deaf).crc ∧
      (mid 0x08#8 0 .data 0x10#8 quiet).data = (mid 0x08#8 0 .data 0x10#8 deaf).data ∧
      (mid 0x08#8 0 .data 0x10#8 quiet).seq = (mid 0x08#8 0 .data 0x10#8 deaf).seq :=
  ⟨_, rfl, rfl, rfl, rfl⟩

/-- An accept, a serial call, a completion, a reset, and the end of an illegal byte. -/
theorem witness_SeqMovesAreAcceptCallAndEnd :
    (∃ t, step (ready 0x00#8 quiet [hw 0 0x05#8]) = .next t ∧ t.seq = .run 0x05#8 0) ∧
    (∃ t, step (mid 0x05#8 7 .data 0x00#8 quiet) = .next t ∧ t.seq = .run 0x05#8 8) ∧
    (∃ t, step (mid 0x05#8 8 .data 0x00#8 quiet) = .next t ∧ t.seq = .idle) ∧
    (∃ t, step { mid 0x05#8 1 .data 0x00#8 quiet with events := [.hardwareReset] } = .next t ∧
      t.seq = .idle) ∧
    ∃ t, step { mid 0x09#8 0 .data 0x00#8 quiet with events := [.core] } = .next t ∧ t.seq = .idle :=
  ⟨⟨_, rfl, rfl⟩, ⟨_, rfl, rfl⟩, ⟨_, rfl, rfl⟩, ⟨_, rfl, rfl⟩, ⟨_, rfl, rfl⟩⟩

/-- HOSTERR set, and cleared by the accept of INIT. -/
theorem witness_HosterrIsSticky :
    (∃ t, step { mid 0x05#8 1 .data 0x00#8 quiet with events := [hw 1 0xFF#8] } = .next t ∧
      t.hosterr = true) ∧
    (∃ t, step { mid 0x05#8 1 .data 0x00#8 quiet with events := [.hardwareReset] } = .next t) ∧
    (∃ t, step { ready 0x00#8 quiet [hw 0 0x01#8] with hosterr := true } = .next t ∧ t.hosterr = false) :=
  ⟨⟨_, rfl, rfl⟩, ⟨_, rfl⟩, ⟨_, rfl, rfl⟩⟩

/-- The completion step of INIT changes INITD. -/
theorem witness_InitdAndPresentWriters_initd :
    OwcInv { mid 0x01#8 1 .data 0x77#8 quiet with initd := false } ∧
    ∃ t, step { mid 0x01#8 1 .data 0x77#8 quiet with initd := false } = .next t ∧ t.initd = true :=
  ⟨first_init_inv _ _, _, rfl, rfl⟩

/-- The completion step of OWRESET changes PRESENT. -/
theorem witness_InitdAndPresentWriters_present :
    OwcInv (mid 0x02#8 4 .data 0x77#8 quiet) ∧
    (∀ es, (mid 0x02#8 4 .data 0x77#8 quiet).events ≠ .hardwareReset :: es) ∧
    ∃ t, step (mid 0x02#8 4 .data 0x77#8 quiet) = .next t ∧
      t.present ≠ (mid 0x02#8 4 .data 0x77#8 quiet).present :=
  ⟨mid_inv (i := .owreset) _ _ rfl (by decide) (by decide) (by decide), fun _ => by simp [mid, ready],
    _, rfl, by decide⟩

/-- OWRESET's two changes of rate. -/
theorem witness_BaudSelChangesWithConfigure :
    (OwcInv (mid 0x02#8 0 .data 0x77#8 quiet) ∧ ∃ t, step (mid 0x02#8 0 .data 0x77#8 quiet) = .next t ∧
      t.baudSel = .reset) ∧
    (OwcInv (mid 0x02#8 3 .reset 0x77#8 quiet) ∧ ∃ t, step (mid 0x02#8 3 .reset 0x77#8 quiet) = .next t ∧
      t.baudSel = .data) :=
  ⟨⟨mid_owreset_inv _ _, _, rfl, rfl⟩,
    ⟨mid_inv (i := .owreset) _ _ rfl (by decide) (by decide) (by decide), _, rfl, rfl⟩⟩

end Sys2Proof.Tests
end

section
/-! PROOFS. The state's own rules (10_state.md): the baud invariant, HOSTERR and CRC. -/

namespace Sys2Proof.Machine

/-! ## The command byte -/

/-- The opcode map read backwards (30_encoding.md R54). -/
theorem instrOfOp_eq_some_iff (op : BitVec 4) (i : Instr) : instrOfOp op = some i ↔ op = i.op := by
  cases i <;> revert op <;> decide

/-- A byte is the byte of its two fields (30_encoding.md R52). -/
theorem toByte_ofByte (b : Byte) : (Cmd8.ofByte b).toByte = b := by
  revert b; decide

/-- A byte decodes to a command exactly when it is that command's byte (30_encoding.md R54). -/
theorem decodeByte_eq_ok_iff (b : Byte) (i : Instr) : decodeByte b = .ok i ↔ b = encodeByte i := by
  rw [decodeByte_ok_iff, instrOfOp_eq_some_iff]
  constructor
  · rintro ⟨hrsv, hop⟩
    rw [← toByte_ofByte b, Cmd8.toByte, hrsv, hop]
    rfl
  · rintro rfl
    simp [encodeByte, ofByte_toByte]

/-- No two commands share a byte (30_encoding.md R54). -/
theorem encodeByte_injective : Function.Injective encodeByte := by
  intro i j h
  have hi : decodeByte (encodeByte i) = .ok i := (decodeByte_eq_ok_iff _ _).2 rfl
  have hj : decodeByte (encodeByte i) = .ok j := (decodeByte_eq_ok_iff _ _).2 h
  exact Except.ok.inj (hi.symm.trans hj)

/-! ## What a Core step leaves alone -/

@[simp] theorem serialReceive_cmd (s : State) : (serialReceive s).cmd = s.cmd := rfl
@[simp] theorem serialReceive_crc (s : State) : (serialReceive s).crc = s.crc := rfl
@[simp] theorem serialReceive_hosterr (s : State) : (serialReceive s).hosterr = s.hosterr := rfl
@[simp] theorem serialReceive_baudSel (s : State) : (serialReceive s).baudSel = s.baudSel := rfl
@[simp] theorem serialReceive_seq (s : State) : (serialReceive s).seq = s.seq.called := rfl
@[simp] theorem serialReceive_events (s : State) : (serialReceive s).events = s.events := rfl
@[simp] theorem serialReceive_reads (s : State) : (serialReceive s).reads = s.reads := rfl

/-- What every Core step of `i` from `s` to `t` has in common (60_exceptions.md R99): CMD, HOSTERR
and the Host's data are not its own, CRC is the checksum commands' (10_state.md R25), SEQ counts one
call or ends, and only OWRESET leaves the data rate (10_state.md R26). -/
structure CoreFrame (i : Instr) (s t : State) : Prop where
  cmd : t.cmd = s.cmd
  hosterr : t.hosterr = s.hosterr
  events : t.events = s.events
  reads : t.reads = s.reads
  crc : i ≠ .crcclr → i ≠ .crcupd → t.crc = s.crc
  seq : t.seq = .idle ∨ t.seq = s.seq.called
  baudSel : i ≠ .owreset → t.baudSel = s.baudSel ∨ t.baudSel = .data

theorem coreFrame_endWithError (i : Instr) (e : ErrCode) (s : State) :
    CoreFrame i s (endWithError e s) := by
  constructor <;> simp

theorem coreFrame_abort (i : Instr) (s : State) : CoreFrame i s (abort s) := by
  obtain ⟨hseq, hbaud, -, -, hcrc, hcmd, -, hhost, hev, hrd⟩ := abort_keeps s
  exact ⟨hcmd, hhost, hev, hrd, fun _ _ => hcrc, .inl hseq, fun _ => .inr hbaud⟩

theorem coreFrame_afterTransmit (i : Instr) (f : Byte) (a : TxAnswer) (l : Line) (d : Nat)
    (s : State) : CoreFrame i s (afterTransmit f a l d s) := by
  constructor <;> simp

theorem coreFrame_serialReceive (i : Instr) (s : State) : CoreFrame i s (serialReceive s) := by
  constructor <;> simp

/-- Every Core step of every command keeps its frame. -/
theorem exec_frame {i : Instr} {s t : State} (h : exec i s = .next t) : CoreFrame i s t := by
  cases i with
  | init =>
    rcases execInit_next_cases h with ⟨_, _, rfl⟩ | ⟨_, _, rfl⟩ <;> constructor <;> simp
  | owreset =>
    rcases execOwreset_next_cases h with ⟨_, _, _, rfl⟩ | ⟨_, _, _, _, rfl⟩ | ⟨_, _, _, rfl⟩ |
      ⟨_, _, _, _, _, _, _, rfl⟩ | ⟨_, _, _, rfl⟩ | ⟨_, _, _, rfl⟩ | ⟨_, _, _, rfl⟩
    · exact coreFrame_endWithError _ _ _
    · exact coreFrame_abort _ _
    · constructor <;> simp
    · exact coreFrame_afterTransmit _ _ _ _ _ _
    · exact coreFrame_serialReceive _ _
    · constructor <;> simp
    · constructor <;> simp
  | wbit =>
    rcases execWbit_next_cases h with ⟨_, _, _, rfl⟩ | ⟨_, _, _, _, rfl⟩ |
      ⟨_, _, _, _, _, _, _, rfl⟩ | ⟨_, _, _, rfl⟩
    · exact coreFrame_endWithError _ _ _
    · exact coreFrame_abort _ _
    · exact coreFrame_afterTransmit _ _ _ _ _ _
    · constructor <;> simp
  | rbit =>
    rcases execRbit_next_cases h with ⟨_, _, _, rfl⟩ | ⟨_, _, _, _, rfl⟩ |
      ⟨_, _, _, _, _, _, _, rfl⟩ | ⟨_, _, _, rfl⟩ | ⟨_, _, _, rfl⟩
    · exact coreFrame_endWithError _ _ _
    · exact coreFrame_abort _ _
    · exact coreFrame_afterTransmit _ _ _ _ _ _
    · exact coreFrame_serialReceive _ _
    · constructor <;> simp
  | wbyte =>
    rcases execWbyte_next_cases h with ⟨_, _, _, rfl⟩ | ⟨_, _, _, _, rfl⟩ |
      ⟨_, _, _, _, _, _, _, _, _, _, rfl⟩ | ⟨_, _, _, rfl⟩
    · exact coreFrame_endWithError _ _ _
    · exact coreFrame_abort _ _
    · constructor <;> simp
    · constructor <;> simp
  | rbyte =>
    rcases execRbyte_next_cases h with ⟨_, _, _, rfl⟩ | ⟨_, _, _, _, rfl⟩ |
      ⟨_, _, _, _, _, _, _, _, _, _, rfl⟩ | ⟨_, _, _, _, _, rfl⟩ | ⟨_, _, _, rfl⟩
    · exact coreFrame_endWithError _ _ _
    · exact coreFrame_abort _ _
    · constructor <;> simp
    · exact coreFrame_serialReceive _ _
    · constructor <;> simp
  | crcclr =>
    obtain ⟨_, _, rfl⟩ := execCrcclr_next_cases h
    constructor <;> simp
  | crcupd =>
    obtain ⟨_, _, rfl⟩ := execCrcupd_next_cases h
    constructor <;> simp

/-- The Core's turn never writes HOSTERR (10_state.md R24). -/
theorem coreTurn_hosterr {s t : State} (h : coreTurn s = .next t) : t.hosterr = s.hosterr := by
  rcases coreTurn_next_cases h with ⟨_, rfl⟩ | ⟨_, _, _, _, rfl⟩ | ⟨_, _, _, _, _, h⟩
  · rfl
  · simp
  · exact (exec_frame h).hosterr

/-- CRCCLR's Core step clears CRC (44_checksum.md R83). -/
theorem coreTurn_crc_of_crcclr {s t : State} (h : coreTurn s = .next t)
    (hs : s.seq = .run 0x07#8 0) : t.crc = 0x00#8 := by
  rw [coreTurn_run (i := .crcclr) hs rfl] at h
  obtain ⟨_, _, rfl⟩ := execCrcclr_next_cases h
  rfl

/-- CRCUPD's Core step folds DATA into CRC (44_checksum.md R84). -/
theorem coreTurn_crc_of_crcupd {s t : State} (h : coreTurn s = .next t)
    (hs : s.seq = .run 0x08#8 0) : t.crc = crcFold s.crc s.data := by
  rw [coreTurn_run (i := .crcupd) hs rfl] at h
  obtain ⟨_, _, rfl⟩ := execCrcupd_next_cases h
  rfl

/-- Every other turn of the Core keeps CRC (10_state.md R25). -/
theorem coreTurn_keeps_crc {s t : State} (h : coreTurn s = .next t)
    (hclr : s.seq ≠ .run 0x07#8 0) (hupd : s.seq ≠ .run 0x08#8 0) : t.crc = s.crc := by
  rcases coreTurn_next_cases h with ⟨_, rfl⟩ | ⟨_, _, _, _, rfl⟩ | ⟨c, k, i, hs, hd, h⟩
  · rfl
  · rfl
  · obtain rfl := (decodeByte_eq_ok_iff c i).1 hd
    refine (exec_frame h).crc ?_ ?_
    · rintro rfl
      obtain ⟨_, hs0, _⟩ := execCrcclr_next_cases h
      cases hs.symm.trans hs0
      exact hclr hs
    · rintro rfl
      obtain ⟨_, hs0, _⟩ := execCrcupd_next_cases h
      cases hs.symm.trans hs0
      exact hupd hs

/-- While BUSY is 0, SEQ is IDLE (10_state.md R19). -/
theorem idle_of_not_busy {s : State} (h : s.busy = false) : s.seq = .idle := by
  cases hq : s.seq with
  | idle => rfl
  | run c k => simp [busy_of_run hq] at h

/-! ## The host port, and the step that a listed event makes -/

/-- Everything a host access can do (20_memory.md R33 to R37). -/
theorem hostAccess_next_cases {acc : HostAccess} {s t : State} (h : hostAccess acc s = .next t) :
    (∃ a v, acc = .write 8 a v ∧ a ≤ 1 ∧ s.busy = true ∧ t = { s with hosterr := true }) ∨
    (∃ v, acc = .write 8 0 v ∧ s.busy = false ∧ t = accept v s) ∨
    (∃ v, acc = .write 8 1 v ∧ s.busy = false ∧ t = { s with data := v }) ∨
    (∃ a v, acc = .write 8 a v ∧ (a = 2 ∨ a = 3) ∧ t = s) ∨
    (∃ a v, acc = .read 8 a ∧ s.register a = some v ∧
      t = { s with reads := s.reads ++ [(a, v)] }) := by
  rcases acc with ⟨bits, a, v⟩ | ⟨bits, a⟩ <;> simp only [hostAccess] at h <;> split at h
  · next hbits =>
    subst hbits
    rcases hostWrite_next_cases h with ⟨ha, hb, ht⟩ | ⟨rfl, hb, ht⟩ | ⟨rfl, hb, ht⟩ | ⟨ha, ht⟩
    · exact .inl ⟨a, v, rfl, ha, hb, ht⟩
    · exact .inr (.inl ⟨v, rfl, hb, ht⟩)
    · exact .inr (.inr (.inl ⟨v, rfl, hb, ht⟩))
    · exact .inr (.inr (.inr (.inl ⟨a, v, rfl, ha, ht⟩)))
  · cases h
  · next hbits =>
    subst hbits
    obtain ⟨v, hv, ht⟩ := (hostRead_next_iff _ _ _).1 h
    exact .inr (.inr (.inr (.inr ⟨a, v, rfl, hv, ht⟩)))
  · cases h

/-- A step that answers is a move: its ERR code is one that OWC produces
(93_implementation_defined.md K9). -/
theorem move_of_step {s t : State} (h : step s = .next t) : move s = .next t := by
  rw [step] at h
  split at h
  · cases h
  · exact h

/-- A step that answers takes the event at the head of the schedule (20_memory.md R48). -/
theorem takeEvent_of_step {s t : State} {e : Event} {es : List Event} (h : step s = .next t)
    (he : s.events = e :: es) : takeEvent e { s with events := es } = .next t :=
  move_cons he ▸ move_of_step h

/-- The step of a listed host write is that write (30_encoding.md R62). -/
theorem hostWrite_of_step {s t : State} {a : Nat} {v : Byte} {es : List Event}
    (h : step s = .next t) (he : s.events = hw a v :: es) :
    hostWrite a v { s with events := es } = .next t :=
  takeEvent_of_step h he

/-- With a Core turn next, or nothing listed, a step is the Core's turn (DESIGN CHOICE, log 1). -/
theorem coreTurn_of_step {s t : State} {es : List Event} (h : step s = .next t)
    (he : s.events = [] ∨ s.events = .core :: es) :
    ∃ es', coreTurn { s with events := es' } = .next t := by
  rcases he with he | he
  · exact ⟨s.events, move_nil he ▸ move_of_step h⟩
  · exact ⟨es, takeEvent_of_step h he⟩

/-- A write of CMD or DATA while busy sets HOSTERR (20_memory.md R37). -/
theorem hostWrite_busy {a : Nat} {s : State} (ha : a ≤ 1) (hb : s.busy = true) (v : Byte) :
    hostWrite a v s = .next { s with hosterr := true } := by
  obtain rfl | rfl : a = 0 ∨ a = 1 := by omega
  · simp [hostWrite, hb]
  · simp [hostWrite, hb]

/-- A write of CMD while idle is accept (20_memory.md R36, 60_exceptions.md R97). -/
theorem hostWrite_cmd_idle {s : State} (hb : s.busy = false) (v : Byte) :
    hostWrite 0 v s = .next (accept v s) := by
  simp [hostWrite, hb]

/-- No host access writes CRC, a write of CRC included (10_state.md R25). -/
theorem hostAccess_crc {acc : HostAccess} {s t : State} (h : hostAccess acc s = .next t) :
    t.crc = s.crc := by
  rcases hostAccess_next_cases h with ⟨_, _, _, _, _, rfl⟩ | ⟨_, _, _, rfl⟩ | ⟨_, _, _, rfl⟩ |
    ⟨_, _, _, _, rfl⟩ | ⟨_, _, _, _, rfl⟩ <;> rfl

/-- A poll keeps CRC. -/
theorem waitPoll_crc {s t : State} (h : waitPoll s = .next t) : t.crc = s.crc := by
  rw [waitPoll_eq] at h
  cases h
  rfl

/-- What a host access does to HOSTERR: a busy write of CMD or DATA sets it, the accept of INIT
clears it, and every other access keeps it (10_state.md R24). -/
theorem hostAccess_hosterr_cases {acc : HostAccess} {s t : State}
    (h : hostAccess acc s = .next t) :
    t.hosterr = s.hosterr ∨
    (t.hosterr = true ∧ s.busy = true ∧ ∃ v, acc = .write 8 0 v ∨ acc = .write 8 1 v) ∨
    (t.hosterr = false ∧ s.busy = false ∧ acc = .write 8 0 0x01#8) := by
  rcases hostAccess_next_cases h with ⟨a, v, rfl, ha, hb, rfl⟩ | ⟨v, rfl, hb, rfl⟩ |
    ⟨_, _, _, rfl⟩ | ⟨_, _, _, _, rfl⟩ | ⟨_, _, _, _, rfl⟩
  · obtain rfl | rfl : a = 0 ∨ a = 1 := by omega
    · exact .inr (.inl ⟨rfl, hb, v, .inl rfl⟩)
    · exact .inr (.inl ⟨rfl, hb, v, .inr rfl⟩)
  · by_cases hv : v = encodeByte .init
    · exact .inr (.inr ⟨by simp [hv], hb, by rw [hv, encodeByte_init]⟩)
    · exact .inl (by simp [hv])
  · exact .inl rfl
  · exact .inl rfl
  · exact .inl rfl

/-- Everything a step can do to HOSTERR, with the event that does it (10_state.md R24). -/
theorem step_hosterr_cases {s t : State} (h : step s = .next t) :
    t.hosterr = s.hosterr ∨
    (t.hosterr = true ∧ s.busy = true ∧
      ∃ v es, s.events = hw 0 v :: es ∨ s.events = hw 1 v :: es) ∨
    (t.hosterr = false ∧ s.busy = false ∧ ∃ es, s.events = hw 0 0x01#8 :: es) ∨
    (t.hosterr = false ∧ ∃ es, s.events = .hardwareReset :: es) := by
  rcases step_next_cases h with ⟨_, h⟩ | ⟨es, _, h⟩ | ⟨es, he, rfl⟩ | ⟨acc, es, he, h⟩ | ⟨_, _, h⟩
  · exact .inl (coreTurn_hosterr h)
  · exact .inl (coreTurn_hosterr (s := { s with events := es }) h)
  · exact .inr (.inr (.inr ⟨rfl, es, he⟩))
  · rcases hostAccess_hosterr_cases h with hk | ⟨ht, hb, v, rfl | rfl⟩ | ⟨ht, hb, rfl⟩
    · exact .inl hk
    · exact .inr (.inl ⟨ht, hb, v, es, .inl he⟩)
    · exact .inr (.inl ⟨ht, hb, v, es, .inr he⟩)
    · exact .inr (.inr (.inl ⟨ht, hb, es, he⟩))
  · rw [waitPoll_eq] at h
    cases h
    exact .inl rfl

/-! ## Runs from reset -/

/-- What every step keeps, every run keeps. -/
theorem steps_keep {P : State → Prop} (keep : ∀ s t, P s → step s = .next t → P t) {n : Nat}
    {s t : State} (hs : P s) (h : steps n s = .next t) : P t := by
  induction n generalizing s with
  | zero =>
    cases h
    exact hs
  | succ n ih =>
    rcases e : step s with u | r | r <;> simp only [steps, e] at h
    · exact ih (keep s u hs e) h
    · cases h
    · cases h

/-- What holds at reset, on every Line and under every schedule, and is kept by every step, holds
of every reachable state. -/
theorem Reachable.of_kept {P : State → Prop} {s : State} (hs : Reachable s)
    (base : ∀ line events, P { State.reset with line := line, events := events })
    (keep : ∀ s t, P s → step s = .next t → P t) : P s := by
  obtain ⟨n, line, events, hrun⟩ := hs
  exact steps_keep keep (base line events) hrun

/-! ## The baud invariant -/

/-- SEQ stands between the two `SerialConfigure` calls of an OWRESET (41_reset_presence.md R68). -/
def Seq.AtResetRate (q : Seq) : Prop := ∃ k, q = .run (encodeByte .owreset) k ∧ 1 ≤ k ∧ k ≤ 3

theorem baudFollowsSeq_iff (s : State) :
    BaudFollowsSeq s ↔ (s.baudSel = .reset ↔ s.seq.AtResetRate) := Iff.rfl

@[simp] theorem atResetRate_idle : ¬ Seq.idle.AtResetRate := by simp [Seq.AtResetRate]

@[simp] theorem atResetRate_run (c : Byte) (k : Nat) :
    (Seq.run c k).AtResetRate ↔ c = encodeByte .owreset ∧ 1 ≤ k ∧ k ≤ 3 := by
  simp only [Seq.AtResetRate, Seq.run.injEq]
  exact ⟨fun ⟨_, ⟨hc, hk⟩, hr⟩ => ⟨hc, hk ▸ hr⟩, fun ⟨hc, hr⟩ => ⟨k, ⟨hc, rfl⟩, hr⟩⟩

/-- Outside those calls the invariant gives the data rate (10_state.md R27). -/
theorem BaudFollowsSeq.data {s : State} (hs : BaudFollowsSeq s) (hq : ¬ s.seq.AtResetRate) :
    s.baudSel = .data := by
  rw [baudFollowsSeq_iff] at hs
  cases hb : s.baudSel with
  | data => rfl
  | reset => exact absurd (hs.1 hb) hq

/-- Inside them it gives the reset rate (10_state.md R26). -/
theorem BaudFollowsSeq.reset {s : State} (hs : BaudFollowsSeq s) (hq : s.seq.AtResetRate) :
    s.baudSel = .reset := ((baudFollowsSeq_iff s).1 hs).2 hq

theorem baudFollowsSeq_of_data {t : State} (hb : t.baudSel = .data)
    (hq : ¬ t.seq.AtResetRate) : BaudFollowsSeq t := by
  simp [baudFollowsSeq_iff, hb, hq]

theorem baudFollowsSeq_of_reset {t : State} (hb : t.baudSel = .reset)
    (hq : t.seq.AtResetRate) : BaudFollowsSeq t := by
  simp [baudFollowsSeq_iff, hb, hq]

/-- The invariant speaks of BAUD_SEL and SEQ alone. -/
theorem BaudFollowsSeq.of_same {s t : State} (hs : BaudFollowsSeq s)
    (hb : t.baudSel = s.baudSel) (hq : t.seq = s.seq) : BaudFollowsSeq t := by
  rwa [BaudFollowsSeq, hb, hq]

/-- OWRESET takes the reset rate in its first call and the data rate in its fourth; it ends, by
refusal, abort or completion, at the data rate (41_reset_presence.md R68, 60_exceptions.md R101). -/
theorem execOwreset_keeps_baudFollowsSeq {s t : State} {k : Nat} (hs : BaudFollowsSeq s)
    (hseq : s.seq = .run (encodeByte .owreset) k) (h : execOwreset s = .next t) :
    BaudFollowsSeq t := by
  rcases execOwreset_next_cases h with ⟨_, he, _, rfl⟩ | ⟨_, _, _, _, rfl⟩ | ⟨_, he, _, rfl⟩ |
    ⟨_, _, _, _, he, _, _, rfl⟩ | ⟨_, he, _, rfl⟩ | ⟨_, he, _, rfl⟩ | ⟨_, he, _, rfl⟩
  · exact baudFollowsSeq_of_data (hs.data (by simp [he])) (by simp)
  · obtain ⟨hidle, hdata, -⟩ := abort_keeps s
    exact baudFollowsSeq_of_data hdata (by simp [hidle])
  all_goals cases hseq.symm.trans he
  · exact baudFollowsSeq_of_reset rfl (by simp [hseq])
  · exact baudFollowsSeq_of_reset (hs.reset (by simp [hseq])) (by simp [hseq])
  · exact baudFollowsSeq_of_reset (hs.reset (by simp [hseq])) (by simp [hseq])
  · exact baudFollowsSeq_of_data rfl (by simp [hseq])
  · exact baudFollowsSeq_of_data (hs.data (by simp [hseq])) (by simp)

/-- Every command keeps the baud invariant: those other than OWRESET stay at the data rate
(10_state.md R27). -/
theorem exec_keeps_baudFollowsSeq {i : Instr} {s t : State} {k : Nat} (hs : BaudFollowsSeq s)
    (hseq : s.seq = .run (encodeByte i) k) (h : exec i s = .next t) : BaudFollowsSeq t := by
  by_cases hi : i = .owreset
  · subst hi
    exact execOwreset_keeps_baudFollowsSeq hs hseq h
  · have hbyte : encodeByte i ≠ encodeByte .owreset := fun e => hi (encodeByte_injective e)
    have hdata : s.baudSel = .data := hs.data (by simp [hseq, hbyte])
    have hframe := exec_frame h
    refine baudFollowsSeq_of_data ((hframe.baudSel hi).elim (·.trans hdata) id) ?_
    rcases hframe.seq with hq | hq
    · simp [hq]
    · simp [hq, hseq, hbyte]

/-- Every turn of the Core keeps the baud invariant. -/
theorem coreTurn_keeps_baudFollowsSeq {s t : State} (hs : BaudFollowsSeq s)
    (h : coreTurn s = .next t) : BaudFollowsSeq t := by
  rcases coreTurn_next_cases h with ⟨_, rfl⟩ | ⟨c, e, hseq, hd, rfl⟩ | ⟨c, k, i, hseq, hd, h⟩
  · exact hs
  · exact baudFollowsSeq_of_data (hs.data (by simp [hseq])) (by simp)
  · obtain rfl := (decodeByte_eq_ok_iff c i).1 hd
    exact exec_keeps_baudFollowsSeq hs hseq h

/-- Every host access keeps the baud invariant: accept starts from IDLE, at the data rate. -/
theorem hostAccess_keeps_baudFollowsSeq {acc : HostAccess} {s t : State} (hs : BaudFollowsSeq s)
    (h : hostAccess acc s = .next t) : BaudFollowsSeq t := by
  rcases hostAccess_next_cases h with ⟨_, _, _, _, _, rfl⟩ | ⟨v, _, hb, rfl⟩ | ⟨_, _, _, rfl⟩ |
    ⟨_, _, _, _, rfl⟩ | ⟨_, _, _, _, rfl⟩
  · exact hs.of_same rfl rfl
  · exact baudFollowsSeq_of_data (hs.data (by simp [idle_of_not_busy hb])) (by simp)
  · exact hs.of_same rfl rfl
  · exact hs
  · exact hs.of_same rfl rfl

/-- Every step keeps the baud invariant (10_state.md R27). -/
theorem step_keeps_baudFollowsSeq (s t : State) (hs : BaudFollowsSeq s) (h : step s = .next t) :
    BaudFollowsSeq t := by
  have hev : ∀ es, BaudFollowsSeq { s with events := es } := fun es => hs.of_same rfl rfl
  rcases step_next_cases h with ⟨_, h⟩ | ⟨es, _, h⟩ | ⟨es, _, rfl⟩ | ⟨acc, es, _, h⟩ | ⟨es, _, h⟩
  · exact coreTurn_keeps_baudFollowsSeq hs h
  · exact coreTurn_keeps_baudFollowsSeq (hev es) h
  · exact baudFollowsSeq_of_data rfl (by simp [State.reset])
  · exact hostAccess_keeps_baudFollowsSeq (hev es) h
  · rw [waitPoll_eq] at h
    cases h
    exact hs.of_same rfl rfl

/-- The baud invariant holds of every reachable state (10_state.md R27). -/
theorem Reachable.baudFollowsSeq {s : State} (hs : Reachable s) : BaudFollowsSeq s :=
  hs.of_kept (fun _ _ => baudFollowsSeq_of_data rfl (by simp [State.reset]))
    step_keeps_baudFollowsSeq

/-! ## The obligations -/

/-- Settles O44, by the baud invariant over runs: neither IDLE nor a command byte from 3 to 6 is
OWRESET's, the one command that leaves the data rate. -/
theorem idleMeansDataRate : Obligations.IdleMeansDataRate := by
  intro s hreach
  have hinv := hreach.baudFollowsSeq
  refine ⟨fun hb _ => hinv.data (by simp [idle_of_not_busy hb]), fun c k hseq h3 _ => ?_⟩
  have hc : c ≠ encodeByte .owreset := by
    rintro rfl
    exact absurd h3 (by decide)
  exact hinv.data (by simp [hseq, hc])

/-- Settles O55: the listed event fixes what the first three clauses say, and the cases of what a
step does to HOSTERR leave one event for each change of it. -/
theorem hosterrIsSticky : Obligations.HosterrIsSticky := by
  intro s t h
  refine ⟨fun v es hb he => ?_, fun es he => ?_, fun es hb he => ?_, fun h0 h1 => ?_,
    fun h1 h0 => ?_⟩
  · obtain ⟨a, ha, he⟩ : ∃ a, a ≤ 1 ∧ s.events = hw a v :: es :=
      he.elim (⟨0, by omega, ·⟩) (⟨1, by omega, ·⟩)
    cases (hostWrite_of_step h he).symm.trans
      (hostWrite_busy (s := { s with events := es }) ha hb v)
    rfl
  · cases takeEvent_of_step h he
    rfl
  · cases (hostWrite_of_step h he).symm.trans
      (hostWrite_cmd_idle (s := { s with events := es }) hb _)
    rfl
  · rcases step_hosterr_cases h with hk | ⟨_, hset⟩ | ⟨ht, _⟩ | ⟨ht, _⟩
    · cases h0.symm.trans (hk.symm.trans h1)
    · exact hset
    · cases ht.symm.trans h1
    · cases ht.symm.trans h1
  · rcases step_hosterr_cases h with hk | ⟨ht, _⟩ | ⟨_, hinit⟩ | ⟨_, hreset⟩
    · cases h1.symm.trans (hk.symm.trans h0)
    · cases ht.symm.trans h0
    · exact .inr hinit
    · exact .inl hreset

/-- Settles O58: the step's event decides who may write CRC, and of the Core's turns only those of
CRCCLR and CRCUPD do. -/
theorem crcHasThreeWriters : Obligations.CrcHasThreeWriters := by
  intro s t h
  have hhost : ∀ acc es, s.events = .host acc :: es → t.crc = s.crc := fun acc es he =>
    hostAccess_crc (s := { s with events := es }) (takeEvent_of_step h he)
  have hwait : ∀ es, s.events = .wait :: es → t.crc = s.crc := fun es he =>
    waitPoll_crc (s := { s with events := es }) (takeEvent_of_step h he)
  refine ⟨fun hnr hclr hupd => ?_, fun es he => ?_, fun es he => ?_, hhost, hwait⟩
  · rcases step_next_cases h with ⟨_, h⟩ | ⟨es, _, h⟩ | ⟨es, he, _⟩ | ⟨acc, es, he, _⟩ | ⟨es, he, _⟩
    · exact coreTurn_keeps_crc h hclr hupd
    · exact coreTurn_keeps_crc (s := { s with events := es }) h hclr hupd
    · exact absurd he (hnr es)
    · exact hhost acc es he
    · exact hwait es he
  · cases takeEvent_of_step h he
    rfl
  · obtain ⟨es', hturn⟩ := coreTurn_of_step h he
    exact ⟨coreTurn_crc_of_crcclr (s := { s with events := es' }) hturn,
      coreTurn_crc_of_crcupd (s := { s with events := es' }) hturn⟩

end Sys2Proof.Machine
end

section
/-! PROOFS. The host port (20_memory.md): reads, writes, and what a busy write leaves to the Core. -/

namespace Sys2Proof.Machine

/-! ## The step of a listed host access -/

/-- With a host access listed next, a step is that access (20_memory.md R48). -/
theorem step_of_host {s : State} {acc : HostAccess} {es : List Event}
    (he : reservedErr s.err = false) (hev : s.events = .host acc :: es) :
    step s = hostAccess acc { s with events := es } :=
  (step_of_err he).trans (move_cons hev)

/-- The step of a listed host write is that write (30_encoding.md R62). -/
theorem step_of_hw {s : State} {a : Nat} {v : Byte} {es : List Event}
    (he : reservedErr s.err = false) (hev : s.events = hw a v :: es) :
    step s = hostWrite a v { s with events := es } :=
  step_of_host he hev

/-- The step of a listed host read records the register's value (20_memory.md R35). -/
theorem step_of_hr {s : State} {a : Nat} {v : Byte} {es : List Event}
    (he : reservedErr s.err = false) (hev : s.events = hr a :: es)
    (hv : State.register { s with events := es } a = some v) :
    step s = .next { s with events := es, reads := s.reads ++ [(a, v)] } :=
  (step_of_host he hev).trans ((hostRead_next_iff a _ _).2 ⟨v, hv, rfl⟩)

/-- A write of DATA while idle (20_memory.md R36). -/
theorem hostWrite_data_idle {s : State} (hb : s.busy = false) (v : Byte) :
    hostWrite 1 v s = .next { s with data := v } := by
  simp [hostWrite, hb]

theorem busy_of_not_idle {s : State} (h : s.seq ≠ .idle) : s.busy = true := by
  cases hb : s.busy with
  | true => rfl
  | false => exact absurd (idle_of_not_busy hb) h

/-- The step of a listed write of CMD or DATA while busy (20_memory.md R37). -/
theorem step_of_busy_write {s : State} {v : Byte} {es : List Event}
    (he : reservedErr s.err = false) (hseq : s.seq ≠ .idle)
    (hev : s.events = hw 0 v :: es ∨ s.events = hw 1 v :: es) :
    step s = .next { s with events := es, hosterr := true } := by
  have hb : State.busy { s with events := es } = true := busy_of_not_idle hseq
  rcases hev with hev | hev
  · exact (step_of_hw he hev).trans (hostWrite_busy (by decide) hb v)
  · exact (step_of_hw he hev).trans (hostWrite_busy (by decide) hb v)

/-- Of the host accesses, only an 8-bit write of CMD takes SEQ out of IDLE (20_memory.md R36). -/
theorem hostAccess_starts_only_by_cmd_write {acc : HostAccess} {s t : State}
    (h : hostAccess acc s = .next t) (hs : s.seq = .idle) (ht : t.seq ≠ .idle) :
    ∃ v, acc = .write 8 0 v := by
  rcases hostAccess_next_cases h with ⟨_, _, _, _, _, rfl⟩ | ⟨v, hacc, _, _⟩ | ⟨_, _, _, rfl⟩ |
    ⟨_, _, _, _, rfl⟩ | ⟨_, _, _, _, rfl⟩
  · exact absurd hs ht
  · exact ⟨v, hacc⟩
  · exact absurd hs ht
  · exact absurd hs ht
  · exact absurd hs ht

/-! ## Changes that a Core step does not see -/

@[simp] theorem mapNext_next (g : State → State) (t : State) :
    mapNext g (.next t) = .next (g t) := rfl

@[simp] theorem mapNext_fault (g : State → State) (r : Fault) :
    mapNext g (.fault r) = .fault r := rfl

@[simp] theorem mapNext_refused (g : State → State) (r : Refusal) :
    mapNext g (.refused r) = .refused r := rfl

/-- A change of the four fields that no transport command reads or writes: HOSTERR and the Host's
own data (10_state.md R24, 20_memory.md R48), and CRC (00_scope.md R2). -/
structure Overlay where
  crc : Byte → Byte
  hosterr : Bool → Bool
  events : List Event → List Event
  reads : List (Nat × Byte) → List (Nat × Byte)

namespace Overlay

/-- The state after the change. -/
def apply (g : Overlay) (s : State) : State :=
  { s with
    crc := g.crc s.crc
    hosterr := g.hosterr s.hosterr
    events := g.events s.events
    reads := g.reads s.reads }

/-- HOSTERR and the Host's data set, CRC kept (20_memory.md R37). -/
def hostSide (h : Bool) (rs : List (Nat × Byte)) (es : List Event) : Overlay where
  crc := id
  hosterr := fun _ => h
  events := fun _ => es
  reads := fun _ => rs

variable (g : Overlay) (s : State)

@[simp] theorem apply_seq : (g.apply s).seq = s.seq := rfl
@[simp] theorem apply_initd : (g.apply s).initd = s.initd := rfl
@[simp] theorem apply_timedOut : (g.apply s).timedOut = s.timedOut := rfl
@[simp] theorem apply_line : (g.apply s).line = s.line := rfl
@[simp] theorem apply_draws : (g.apply s).draws = s.draws := rfl
@[simp] theorem apply_shift : (g.apply s).shift = s.shift := rfl

/-! Each update that a transport command makes commutes with the change. -/

@[simp] theorem finish_apply : finish (g.apply s) = g.apply (finish s) := rfl

@[simp] theorem endWithError_apply (e : ErrCode) :
    endWithError e (g.apply s) = g.apply (endWithError e s) := rfl

@[simp] theorem serialConfigure_apply (r : Rate) :
    serialConfigure r (g.apply s) = g.apply (serialConfigure r s) := rfl

@[simp] theorem afterTransmit_apply (f : Byte) (a : TxAnswer) (l : Line) (d : Nat) :
    afterTransmit f a l d (g.apply s) = g.apply (afterTransmit f a l d s) := rfl

@[simp] theorem serialReceive_apply : serialReceive (g.apply s) = g.apply (serialReceive s) := rfl

@[simp] theorem reportPresence_apply : reportPresence (g.apply s) = g.apply (reportPresence s) := rfl

@[simp] theorem writeSlot_apply (k : Nat) : writeSlot k (g.apply s) = g.apply (writeSlot k s) := rfl

@[simp] theorem readSlot_apply (i : Nat) : readSlot i (g.apply s) = g.apply (readSlot i s) := rfl

@[simp] theorem abort_apply : abort (g.apply s) = g.apply (abort s) := by
  cases hb : s.baudSel with
  | data => rw [abort_of_data hb, abort_of_data (s := g.apply s) hb]; rfl
  | reset => rw [abort_of_reset hb, abort_of_reset (s := g.apply s) hb]; rfl

@[simp] theorem serialTransmit_apply (f : Byte) :
    serialTransmit f (g.apply s) = mapNext g.apply (serialTransmit f s) := by
  rcases e : s.line.transmit f s.draws with _ | ⟨a, l, d⟩ <;> simp [serialTransmit, e]

/-- Dispatch and abort do not see the change, so a bus command's step commutes with it when each
step of its body does. -/
theorem busStep_apply {body body' : Nat → Result}
    (hbody : ∀ k, body' k = mapNext g.apply (body k)) :
    busStep (g.apply s) body' = mapNext g.apply (busStep s body) := by
  rcases hs : s.seq with _ | ⟨c, _ | k⟩
  · simp [busStep, hs]
  · rw [busStep_first hs, busStep_first (s := g.apply s) hs]
    cases hi : s.initd <;> simp [hi, hbody]
  · rw [busStep_later hs, busStep_later (s := g.apply s) hs]
    cases ht : s.timedOut <;> simp [ht, hbody]

theorem plainStep_apply {body body' : Nat → Result}
    (hbody : ∀ k, body' k = mapNext g.apply (body k)) :
    plainStep (g.apply s) body' = mapNext g.apply (plainStep s body) := by
  cases hs : s.seq <;> simp [plainStep, hs, hbody]

theorem illegalStep_apply : illegalStep (g.apply s) = mapNext g.apply (illegalStep s) := by
  rcases hs : s.seq with _ | ⟨c, _ | k⟩ <;> simp [illegalStep, hs]

/-- No transport command sees the change (00_scope.md R2). -/
theorem exec_apply_of_transport {i : Instr} (hclr : i ≠ .crcclr) (hupd : i ≠ .crcupd) :
    exec i (g.apply s) = mapNext g.apply (exec i s) := by
  cases i with
  | init =>
    unfold exec execInit
    exact plainStep_apply g s fun | 0 => rfl | 1 => rfl | _ + 2 => rfl
  | owreset =>
    unfold exec execOwreset
    exact busStep_apply g s fun
      | 0 => rfl
      | 1 => serialTransmit_apply g s resetFrame
      | 2 => rfl
      | 3 => rfl
      | 4 => rfl
      | _ + 5 => rfl
  | wbit =>
    unfold exec execWbit
    exact busStep_apply g s fun
      | 0 => serialTransmit_apply g s (bitFrame s.bitOperand)
      | 1 => rfl
      | _ + 2 => rfl
  | rbit =>
    unfold exec execRbit
    exact busStep_apply g s fun
      | 0 => serialTransmit_apply g s probeFrame
      | 1 => rfl
      | 2 => rfl
      | _ + 3 => rfl
  | wbyte =>
    unfold exec execWbyte
    refine busStep_apply g s fun k => ?_
    simp only [writeSlot_apply, apply_shift, serialTransmit_apply, finish_apply]
    split
    · rfl
    · split <;> rfl
  | rbyte =>
    unfold exec execRbyte
    refine busStep_apply g s fun k => ?_
    simp only [readSlot_apply, serialTransmit_apply, serialReceive_apply]
    split
    · split <;> rfl
    · split
      · rfl
      · split <;> rfl
  | crcclr => exact absurd rfl hclr
  | crcupd => exact absurd rfl hupd

/-- No command sees a change that keeps CRC. -/
theorem exec_apply (i : Instr) (hcrc : g.crc = id) :
    exec i (g.apply s) = mapNext g.apply (exec i s) := by
  by_cases hclr : i = .crcclr
  · subst hclr
    exact plainStep_apply g s fun | 0 => by simp [apply, hcrc, finish] | _ + 1 => rfl
  by_cases hupd : i = .crcupd
  · subst hupd
    exact plainStep_apply g s fun
      | 0 => by simp [apply, hcrc, finish, State.byteOperand]
      | _ + 1 => rfl
  exact exec_apply_of_transport g s hclr hupd

/-- The Core's turn does not see a change that keeps CRC. -/
theorem coreTurn_apply (hcrc : g.crc = id) :
    coreTurn (g.apply s) = mapNext g.apply (coreTurn s) := by
  cases hs : s.seq with
  | idle => rw [coreTurn_idle hs, coreTurn_idle (s := g.apply s) hs]; rfl
  | run c k =>
    cases hd : decodeByte c with
    | ok i => rw [coreTurn_run hs hd, coreTurn_run (s := g.apply s) hs hd, exec_apply g s i hcrc]
    | error e =>
      rw [coreTurn_illegal hs hd, coreTurn_illegal (s := g.apply s) hs hd, illegalStep_apply]

end Overlay

/-! ## The obligations -/

/-- Settles O9: the busy write is its own step, and the Core's turn commutes with every change of
HOSTERR and the Host's data. -/
theorem busyHostWriteOnlySetsHosterr : Obligations.BusyHostWriteOnlySetsHosterr := by
  intro s v es he hseq
  exact ⟨step_of_busy_write he hseq, fun h rs => (Overlay.hostSide h rs es).coreTurn_apply s rfl⟩

/-- Settles O6: each of the four addresses names its register. -/
theorem hostReadReturnsTheRegister : Obligations.HostReadReturnsTheRegister := by
  intro s es he
  exact ⟨fun hev => step_of_hr he hev rfl, fun hev => step_of_hr he hev rfl,
    fun hev => step_of_hr he hev rfl, fun hev => step_of_hr he hev rfl⟩

/-- Settles O8: the step of a listed write is that write, which idle and busy take by its address;
of all accesses an idle OWC is started only by the write of CMD. -/
theorem hostWriteEffects : Obligations.HostWriteEffects := by
  intro s es he
  have hidle : s.seq = .idle → State.busy { s with events := es } = false := not_busy_of_idle
  exact ⟨fun v hev hs => (step_of_hw he hev).trans (hostWrite_cmd_idle (hidle hs) v),
    fun v hev hs => (step_of_hw he hev).trans (hostWrite_data_idle (hidle hs) v),
    fun v hev hs => step_of_busy_write he hs hev,
    fun v hev => step_of_hw he hev,
    fun v hev => step_of_hw he hev,
    fun acc t hev hs h ht =>
      hostAccess_starts_only_by_cmd_write (takeEvent_of_step h hev) hs ht⟩

end Sys2Proof.Machine
end

section
/-! PROOFS. Encoding and frames (30_encoding.md): the legal command bytes, what an illegal one does,
and the rate each frame is sent at. -/

namespace Sys2Proof.Machine

/-! ## The legal command bytes -/

/-- `RSV` is the high digit of a byte (30_encoding.md R52). -/
theorem ofByte_rsv_toNat (b : Byte) : (Cmd8.ofByte b).rsv.toNat = b.toNat / 16 := by
  have hb := b.isLt
  simp only [Cmd8.ofByte, BitVec.extractLsb'_toNat, Nat.shiftRight_eq_div_pow]
  omega

/-- `OP` is its low digit (30_encoding.md R52). -/
theorem ofByte_op_toNat (b : Byte) : (Cmd8.ofByte b).op.toNat = b.toNat % 16 := by
  simp [Cmd8.ofByte]

/-- A byte is legal exactly when it is one of 1 to 8 (30_encoding.md R54). -/
theorem exists_decodeByte_ok_iff (b : Byte) :
    (∃ i, decodeByte b = .ok i) ↔ 1 ≤ b.toNat ∧ b.toNat ≤ 8 := by
  have hop := instrOfOp_isSome_iff (Cmd8.ofByte b).op
  rw [Option.isSome_iff_exists, ofByte_op_toNat] at hop
  simp only [decodeByte_ok_iff, exists_and_left, hop, BitVec.toNat_eq, ofByte_rsv_toNat,
    BitVec.toNat_ofNat]
  omega

/-- Every other byte is illegal (30_encoding.md R55). -/
theorem exists_decodeByte_error_iff (b : Byte) :
    (∃ e, decodeByte b = .error e) ↔ b.toNat = 0 ∨ 9 ≤ b.toNat := by
  have hok := exists_decodeByte_ok_iff b
  cases hd : decodeByte b with
  | ok i =>
    have hrange := hok.1 ⟨i, hd⟩
    exact ⟨nofun, fun _ => by omega⟩
  | error e =>
    have hrange := mt hok.2 (by simp [hd])
    exact ⟨fun _ => by omega, fun _ => ⟨e, rfl⟩⟩

/-! ## An illegal command byte -/

/-- A command that its dispatch ends with an error, accepted while idle with no abort pending,
leaves its byte and the code; the accept of INIT clears two flags more (40_init.md R65). -/
theorem endWithError_accept {v : Byte} {s : State} (hv : v ≠ encodeByte .init)
    (hseq : s.seq = .idle) (ht : s.timedOut = false) (e : ErrCode) :
    endWithError e (accept v s) = { s with cmd := v, err := e.code } := by
  simp [endWithError, finish, accept, hv, ← hseq, ← ht]

/-- The one Core step of an illegal byte just accepted (60_exceptions.md R93, R98). -/
theorem coreTurn_accept_illegal {v : Byte} {e : DecodeError} (hd : decodeByte v = .error e)
    (s : State) : coreTurn (accept v s) = .next (endWithError .illegalCmd (accept v s)) :=
  coreTurn_illegal (s := accept v s) rfl hd

/-- No abort is pending while idle (60_exceptions.md R101). -/
theorem TimeoutPending.not_timedOut_of_idle {s : State} (h : TimeoutPending s)
    (hseq : s.seq = .idle) : s.timedOut = false := by
  cases ht : s.timedOut with
  | false => rfl
  | true =>
    obtain ⟨c, k, hrun⟩ := h ht
    cases hseq.symm.trans hrun

/-! ## What a Core step adds to the trace -/

/-- A serial call that a Core step of `i` from `s` may note (20_memory.md R40 to R42): OWRESET alone
sends the reset frame, as its second call, and the other commands send bit frames. -/
inductive CoreCall (i : Instr) (s : State) : SerialOp → Prop
  | configure (r : Rate) : CoreCall i s (.configure r)
  | transmitReset {c : Byte} (a : TxAnswer) (hi : i = .owreset) (hseq : s.seq = .run c 1) :
      CoreCall i s (.transmit s.baudSel resetFrame a)
  | transmitBit (b : Bool) (a : TxAnswer) (hi : i ≠ .owreset) :
      CoreCall i s (.transmit s.baudSel (bitFrame b) a)
  | receive {c : Byte} {k : Nat} (a : RxAnswer) (hseq : s.seq = .run c k)
      (hk : i.receivesAfter k = true) (ht : s.timedOut = false) : CoreCall i s (.receive a)

/-- The trace of `t` is that of `s`, or has one call of `i` more. -/
def TraceGrows (i : Instr) (s t : State) : Prop :=
  t.trace = s.trace ∨ ∃ op, CoreCall i s op ∧ t.trace = s.trace ++ [op]

theorem traceGrows_abort (i : Instr) (s : State) : TraceGrows i s (abort s) := by
  cases hb : s.baudSel with
  | data => exact .inl (by rw [abort_of_data hb, endWithError_trace])
  | reset => exact .inr ⟨_, .configure .data, by rw [abort_of_reset hb, endWithError_trace]; rfl⟩

theorem traceGrows_serialConfigure (i : Instr) (r : Rate) (s : State) :
    TraceGrows i s (serialConfigure r s) := .inr ⟨_, .configure r, rfl⟩

theorem traceGrows_serialReceive {i : Instr} {s : State} {c : Byte} {k : Nat}
    (hseq : s.seq = .run c k) (hk : i.receivesAfter k = true) (ht : s.timedOut = false) :
    TraceGrows i s (serialReceive s) := .inr ⟨_, .receive _ hseq hk ht, rfl⟩

/-- Every Core step of every command notes one serial call or none (60_exceptions.md R99). -/
theorem exec_traceGrows {i : Instr} {s t : State} (h : exec i s = .next t) : TraceGrows i s t := by
  cases i with
  | init =>
    rcases execInit_next_cases h with ⟨_, _, rfl⟩ | ⟨_, _, rfl⟩
    · exact traceGrows_serialConfigure _ _ _
    · exact .inl rfl
  | owreset =>
    rcases execOwreset_next_cases h with ⟨_, _, _, rfl⟩ | ⟨_, _, _, _, rfl⟩ | ⟨_, _, _, rfl⟩ |
      ⟨_, a, _, _, hseq, _, _, rfl⟩ | ⟨_, hseq, ht, rfl⟩ | ⟨_, _, _, rfl⟩ | ⟨_, _, _, rfl⟩
    · exact .inl rfl
    · exact traceGrows_abort _ _
    · exact traceGrows_serialConfigure _ _ _
    · exact .inr ⟨_, .transmitReset a rfl hseq, rfl⟩
    · exact traceGrows_serialReceive hseq rfl ht
    · exact traceGrows_serialConfigure _ _ _
    · exact .inl rfl
  | wbit =>
    rcases execWbit_next_cases h with ⟨_, _, _, rfl⟩ | ⟨_, _, _, _, rfl⟩ |
      ⟨_, a, _, _, _, _, _, rfl⟩ | ⟨_, _, _, rfl⟩
    · exact .inl rfl
    · exact traceGrows_abort _ _
    · exact .inr ⟨_, .transmitBit _ a (by decide), rfl⟩
    · exact .inl rfl
  | rbit =>
    rcases execRbit_next_cases h with ⟨_, _, _, rfl⟩ | ⟨_, _, _, _, rfl⟩ |
      ⟨_, a, _, _, _, _, _, rfl⟩ | ⟨_, hseq, ht, rfl⟩ | ⟨_, _, _, rfl⟩
    · exact .inl rfl
    · exact traceGrows_abort _ _
    · exact .inr ⟨_, .transmitBit true a (by decide), rfl⟩
    · exact traceGrows_serialReceive hseq rfl ht
    · exact .inl rfl
  | wbyte =>
    rcases execWbyte_next_cases h with ⟨_, _, _, rfl⟩ | ⟨_, _, _, _, rfl⟩ |
      ⟨_, _, a, _, _, _, _, _, _, _, rfl⟩ | ⟨_, _, _, rfl⟩
    · exact .inl rfl
    · exact traceGrows_abort _ _
    · exact .inr ⟨_, .transmitBit _ a (by decide), rfl⟩
    · exact .inl rfl
  | rbyte =>
    rcases execRbyte_next_cases h with ⟨_, _, _, rfl⟩ | ⟨_, _, _, _, rfl⟩ |
      ⟨_, _, a, _, _, _, _, _, _, _, rfl⟩ | ⟨_, j, hseq, hj, ht, rfl⟩ | ⟨_, _, _, rfl⟩
    · exact .inl rfl
    · exact traceGrows_abort _ _
    · exact .inr ⟨_, .transmitBit true a (by decide), rfl⟩
    · have hk : Instr.rbyte.receivesAfter (2 * j + 1) = true := by
        simp only [Instr.receivesAfter, Bool.and_eq_true, beq_iff_eq, decide_eq_true_eq]
        omega
      exact traceGrows_serialReceive hseq hk ht
    · exact .inl rfl
  | crcclr =>
    obtain ⟨_, _, rfl⟩ := execCrcclr_next_cases h
    exact .inl rfl
  | crcupd =>
    obtain ⟨_, _, rfl⟩ := execCrcupd_next_cases h
    exact .inl rfl

/-! ## The legal trace -/

/-- The two bit frames (30_encoding.md R58). -/
theorem bitFrame_eq_or (b : Bool) : bitFrame b = 0xFF#8 ∨ bitFrame b = 0x00#8 := by
  cases b <;> decide

/-- What `SerialOp.legal` says of a transmit (30_encoding.md R60). -/
theorem transmit_legal_iff (r : Rate) (f : Byte) (a : TxAnswer) :
    (SerialOp.transmit r f a).legal = true ↔
      (f = 0xF0#8 ∧ r = .reset) ∨ ((f = 0xFF#8 ∨ f = 0x00#8) ∧ r = .data) := by
  cases r <;> simp [SerialOp.legal]

/-- The baud invariant makes the calls of a command legal: OWRESET's second call finds the reset
rate, every other command the data rate (30_encoding.md R59, R60). -/
theorem CoreCall.legal {i : Instr} {s : State} {op : SerialOp} {k : Nat} (hop : CoreCall i s op)
    (hs : BaudFollowsSeq s) (hseq : s.seq = .run (encodeByte i) k) : op.legal = true := by
  cases hop with
  | configure r => rfl
  | transmitReset a hi hseq' =>
    subst hi
    cases hseq.symm.trans hseq'
    exact (transmit_legal_iff _ _ _).2 (.inl ⟨rfl, hs.reset (by simp [hseq])⟩)
  | transmitBit b a hi =>
    have hbyte : encodeByte i ≠ encodeByte .owreset := fun e => hi (encodeByte_injective e)
    exact (transmit_legal_iff _ _ _).2 (.inr ⟨bitFrame_eq_or b, hs.data (by simp [hseq, hbyte])⟩)
  | receive a _ _ _ => rfl

/-- Every operation of the trace is legal (30_encoding.md R60). -/
def TraceLegal (s : State) : Prop := ∀ op ∈ s.trace, op.legal = true

theorem TraceLegal.of_same {s t : State} (hs : TraceLegal s) (ht : t.trace = s.trace) :
    TraceLegal t := by
  rwa [TraceLegal, ht]

theorem TraceLegal.of_append {s t : State} {op : SerialOp} (hs : TraceLegal s)
    (hop : op.legal = true) (ht : t.trace = s.trace ++ [op]) : TraceLegal t := by
  rw [TraceLegal, ht]
  exact List.forall_mem_append.2 ⟨hs, by simpa using hop⟩

/-- Every turn of the Core keeps the trace legal. -/
theorem coreTurn_keeps_traceLegal {s t : State} (hs : TraceLegal s) (hb : BaudFollowsSeq s)
    (h : coreTurn s = .next t) : TraceLegal t := by
  rcases coreTurn_next_cases h with ⟨_, rfl⟩ | ⟨_, _, _, _, rfl⟩ | ⟨c, k, i, hseq, hd, h⟩
  · exact hs
  · exact hs.of_same rfl
  · obtain rfl := (decodeByte_eq_ok_iff c i).1 hd
    rcases exec_traceGrows h with ht | ⟨op, hop, ht⟩
    · exact hs.of_same ht
    · exact hs.of_append (hop.legal hb hseq) ht

/-- No host access makes a serial call (20_memory.md R35 to R37). -/
theorem hostAccess_trace {acc : HostAccess} {s t : State} (h : hostAccess acc s = .next t) :
    t.trace = s.trace := by
  rcases hostAccess_next_cases h with ⟨_, _, _, _, _, rfl⟩ | ⟨_, _, _, rfl⟩ | ⟨_, _, _, rfl⟩ |
    ⟨_, _, _, _, rfl⟩ | ⟨_, _, _, _, rfl⟩ <;> rfl

/-- Reset makes no serial call: it marks at most that it cut one (70_reset_and_hazards.md R108). -/
theorem hardwareReset_keeps_traceLegal {s : State} (hs : TraceLegal s) :
    TraceLegal (hardwareReset s) := by
  cases hb : s.busy with
  | false => exact hs.of_same (by simp [hb])
  | true => exact hs.of_append (op := .cutByReset) rfl (by simp [hb])

/-- Where the baud invariant holds, every step keeps the trace legal (30_encoding.md R60). -/
theorem step_keeps_traceLegal {s t : State} (hs : TraceLegal s) (hb : BaudFollowsSeq s)
    (h : step s = .next t) : TraceLegal t := by
  rcases step_next_cases h with ⟨_, h⟩ | ⟨es, _, h⟩ | ⟨es, _, rfl⟩ | ⟨acc, es, _, h⟩ | ⟨es, _, h⟩
  · exact coreTurn_keeps_traceLegal hs hb h
  · exact coreTurn_keeps_traceLegal (s := { s with events := es }) hs (hb.of_same rfl rfl) h
  · exact hardwareReset_keeps_traceLegal (s := { s with events := es }) hs
  · exact hs.of_same (hostAccess_trace (s := { s with events := es }) h)
  · rw [waitPoll_eq] at h
    cases h
    exact hs.of_same rfl

/-- The trace of every reachable state is legal (30_encoding.md R60). -/
theorem Reachable.traceLegal {s : State} (hs : Reachable s) : TraceLegal s := by
  have hboth : BaudFollowsSeq s ∧ TraceLegal s :=
    hs.of_kept (P := fun u => BaudFollowsSeq u ∧ TraceLegal u)
      (fun _ _ => ⟨baudFollowsSeq_of_data rfl (by simp [State.reset]),
        by simp [TraceLegal, State.reset]⟩)
      (fun u v ⟨hb, ht⟩ h => ⟨step_keeps_baudFollowsSeq u v hb h, step_keeps_traceLegal ht hb h⟩)
  exact hboth.2

/-! ## The obligations -/

/-- Settles O45: in a legal trace a transmit's rate fixes its frame. -/
theorem framesKeepTheirRates : Obligations.FramesKeepTheirRates := by
  intro s rate f a hreach hmem
  exact (transmit_legal_iff rate f a).1 (hreach.traceLegal _ hmem)

/-- Settles O12: the first step accepts the byte, the second ends it at dispatch, and of what the two
write only CMD and ERR differ from what an idle state held. -/
theorem illegalCommandChangesOnlyCmdAndErr : Obligations.IllegalCommandChangesOnlyCmdAndErr := by
  intro s c hinv hseq hev hc
  obtain ⟨e, hd⟩ := (exists_decodeByte_error_iff c).2 hc
  have hinit : c ≠ encodeByte .init := by
    rintro rfl
    cases hd
  have haccept : step s = .next (accept c { s with events := [] }) :=
    (step_of_hw hinv.errProduced hev).trans (hostWrite_cmd_idle (s := { s with events := [] })
      (not_busy_of_idle hseq) c)
  have hcore : step (accept c { s with events := [] }) =
      .next (endWithError .illegalCmd (accept c { s with events := [] })) :=
    (step_of_err (by rw [accept_err]; decide)).trans
      ((move_nil rfl).trans (coreTurn_accept_illegal hd _))
  have hidle : s.timedOut = false := hinv.timeoutPending.not_timedOut_of_idle hseq
  rw [steps_succ_of_next haccept, steps_succ_of_next hcore, steps_zero,
    endWithError_accept (s := { s with events := [] }) hinit hseq hidle]
  rfl

/-- Settles O3: the bytes are the table's, and decode is exact on them because the two fields make
up the byte. -/
theorem commandBytesAreTheTable : Obligations.CommandBytesAreTheTable := by
  have hexact : ∀ (b : Byte) (i : Instr), decodeByte b = .ok i ↔ [b] = encode i := fun b i => by
    rw [decodeByte_eq_ok_iff, encode, List.singleton_inj]
  exact ⟨by decide, by decide, by decide, by decide, by decide, by decide, by decide, by decide,
    hexact, by decide, by decide, by decide, by decide⟩

/-- Settles O4: the range 1 to 8 is where decode answers a command, and it names the byte's. -/
theorem everyByteIsACommandOrIllegal : Obligations.EveryByteIsACommandOrIllegal := by
  intro b
  by_cases hb : 1 ≤ b.toNat ∧ b.toNat ≤ 8
  · obtain ⟨i, hd⟩ := (exists_decodeByte_ok_iff b).2 hb
    exact .inl ⟨hb.1, hb.2, i, hd, (decodeByte_eq_ok_iff b i).1 hd⟩
  · have hill : b.toNat = 0 ∨ 9 ≤ b.toNat := by omega
    exact .inr ⟨hill, (exists_decodeByte_error_iff b).2 hill⟩

end Sys2Proof.Machine
end

section
/-! PROOFS. INIT (40_init.md): its two Core steps, and what it makes of an idle OWC. -/

namespace Sys2Proof.Machine

/-! ## The steps of a command run -/

/-- With a write of CMD listed next, the step of an idle OWC is the accept (20_memory.md R36,
60_exceptions.md R97). -/
theorem step_of_cmd_write_idle {s : State} {v : Byte} {es : List Event}
    (he : reservedErr s.err = false) (hseq : s.seq = .idle) (hev : s.events = hw 0 v :: es) :
    step s = .next (accept v { s with events := es }) :=
  (step_of_hw he hev).trans
    (hostWrite_cmd_idle (s := { s with events := es }) (not_busy_of_idle hseq) v)

/-- With nothing listed, a step of a busy OWC is a Core step of the command SEQ names
(60_exceptions.md R98, R99). -/
theorem step_of_run {s : State} {c : Byte} {k : Nat} {i : Instr} (he : reservedErr s.err = false)
    (hev : s.events = []) (hseq : s.seq = .run c k) (hd : decodeByte c = .ok i) :
    step s = exec i s :=
  (step_of_err he).trans ((move_nil hev).trans (coreTurn_run hseq hd))

/-- No accept leaves an ERR code that stops the machine (60_exceptions.md R97). -/
theorem reservedErr_accept (v : Byte) (s : State) : reservedErr (accept v s).err = false := by
  rw [accept_err]
  decide

/-- A run with one step more (20_memory.md R48). -/
theorem steps_snoc {n : Nat} {s t u : State} (hrun : steps n s = .next t)
    (hstep : step t = .next u) : steps (n + 1) s = .next u := by
  rw [steps_add hrun, steps_succ_of_next hstep, steps_zero]

/-! ## INIT -/

/-- INIT's first Core step is its serial call (40_init.md R65). -/
theorem exec_init_first {s : State} {c : Byte} (hseq : s.seq = .run c 0) :
    exec .init s = .next (serialConfigure .data s) :=
  plainStep_run hseq _

/-- INIT's second Core step is its completion (40_init.md R65). -/
theorem exec_init_second {s : State} {c : Byte} (hseq : s.seq = .run c 1) :
    exec .init s = .next (finish { s with initd := true }) :=
  plainStep_run hseq _

/-- INIT between its two Core steps: accepted, and the data rate configured (40_init.md R65). -/
def initConfigured (s : State) : State := serialConfigure .data (accept 0x01#8 s)

/-- INIT completed (40_init.md R65). -/
def initCompleted (s : State) : State := finish { initConfigured s with initd := true }

/-- Of an idle OWC, INIT writes CMD, the fields of STATUS, BAUD_SEL and the serial port, and nothing
else: DATA and CRC keep their values (40_init.md R65, R66). -/
theorem initCompleted_of_idle {s : State} (hseq : s.seq = .idle) :
    initCompleted s = { s with
      cmd := 0x01#8, present := false, err := 0#3, initd := true, hosterr := false
      baudSel := .data, periph := some .data, line := s.line.configure, timedOut := false
      trace := s.trace ++ [.configure .data] } := by
  simp [initCompleted, initConfigured, finish, serialConfigure, accept, encodeByte_init,
    ErrCode.code, ← hseq]

/-- STATUS after INIT is INITD alone, whatever came before (40_init.md R66). -/
theorem statusByte_initCompleted (s : State) : (initCompleted s).statusByte = 0x40#8 := by
  simp [State.statusByte, State.busy, initCompleted, initConfigured, encodeByte_init, Rate.bit,
    ErrCode.code]

/-- With nothing listed, the step after the accept of INIT is the serial call (40_init.md R65). -/
theorem step_accept_init {s : State} (hev : s.events = []) :
    step (accept 0x01#8 s) = .next (initConfigured s) :=
  (step_of_run (reservedErr_accept _ s) hev (accept_seq _ s) rfl).trans
    (exec_init_first (accept_seq _ s))

/-- With nothing listed, the step after the serial call is the completion (40_init.md R65). -/
theorem step_initConfigured {s : State} (hev : s.events = []) :
    step (initConfigured s) = .next (initCompleted s) := by
  have hseq : (initConfigured s).seq = .run 0x01#8 1 := rfl
  have herr : reservedErr (initConfigured s).err = false := reservedErr_accept 0x01#8 s
  exact (step_of_run herr hev hseq rfl).trans (exec_init_second hseq)

/-! ## The obligation -/

/-- Settles O26: the accept, the configure and the completion are the three steps, and each state
shows what is claimed of it. -/
theorem initBringsUpTheTransport : Obligations.InitBringsUpTheTransport := by
  intro s he hseq hev
  have hone : steps 1 s = .next (accept 0x01#8 { s with events := [] }) :=
    steps_succ_of_next (step_of_cmd_write_idle he hseq hev) 0
  have htwo : steps 2 s = .next (initConfigured { s with events := [] }) :=
    steps_snoc hone (step_accept_init rfl)
  have hthree : steps 3 s = .next (initCompleted { s with events := [] }) :=
    steps_snoc htwo (step_initConfigured rfl)
  exact ⟨⟨_, hone, rfl, rfl, rfl, rfl, rfl⟩, ⟨_, htwo, rfl, rfl, rfl⟩,
    ⟨_, hthree, statusByte_initCompleted _,
      initCompleted_of_idle (s := { s with events := [] }) hseq⟩⟩

end Sys2Proof.Machine
end

section
/-! PROOFS. OWRESET (41_reset_presence.md): the run of it for every answer of the Line, and what
each of its ends leaves. -/

namespace Sys2Proof.Machine

/-! ## The Core steps -/

/-- OWRESET is in progress after `k` serial calls, and the Core moves next: dispatch let it pass,
and ERR is as accept left it (60_exceptions.md R97, R98). -/
structure OwresetAt (k : Nat) (s : State) : Prop where
  cmd : s.cmd = encodeByte .owreset
  seq : s.seq = .run (encodeByte .owreset) k
  err : s.err = ErrCode.none.code
  initd : s.initd = true
  events : s.events = []

namespace OwresetAt

variable {k : Nat} {s : State}

theorem step_eq (h : OwresetAt k s) : step s = execOwreset s :=
  step_of_run (by rw [h.err]; decide) h.events h.seq rfl

/-- The first Core step configures the reset rate (41_reset_presence.md R68). -/
theorem step_configure (h : OwresetAt 0 s) : step s = .next (serialConfigure .reset s) := by
  rw [h.step_eq, execOwreset, busStep_first h.seq, if_pos h.initd]

/-- A serial call that timed out makes the next Core step the abort (60_exceptions.md R101). -/
theorem step_abort (h : OwresetAt (k + 1) s) (ht : s.timedOut = true) :
    step s = .next (abort s) := by
  rw [h.step_eq, execOwreset, busStep_later h.seq, if_pos ht]

/-- The second Core step sends the reset frame (41_reset_presence.md R68). -/
theorem step_transmit (h : OwresetAt 1 s) (ht : s.timedOut = false) :
    step s = serialTransmit resetFrame s := by
  simp [h.step_eq, execOwreset, busStep_later h.seq, ht]

/-- The third Core step reads the frame back (41_reset_presence.md R68). -/
theorem step_receive (h : OwresetAt 2 s) (ht : s.timedOut = false) :
    step s = .next (serialReceive s) := by
  simp [h.step_eq, execOwreset, busStep_later h.seq, ht]

/-- The fourth Core step restores the data rate (41_reset_presence.md R68). -/
theorem step_restore (h : OwresetAt 3 s) (ht : s.timedOut = false) :
    step s = .next (serialConfigure .data s) := by
  simp [h.step_eq, execOwreset, busStep_later h.seq, ht]

/-- The fifth Core step reports presence (41_reset_presence.md R68). -/
theorem step_report (h : OwresetAt 4 s) (ht : s.timedOut = false) :
    step s = .next (reportPresence s) := by
  simp [h.step_eq, execOwreset, busStep_later h.seq, ht]

theorem after_configure (h : OwresetAt k s) (r : Rate) :
    OwresetAt (k + 1) (serialConfigure r s) :=
  ⟨h.cmd, by simp [h.seq], h.err, h.initd, h.events⟩

theorem after_transmit (h : OwresetAt k s) (f : Byte) (a : TxAnswer) (l : Line) (d : Nat) :
    OwresetAt (k + 1) (afterTransmit f a l d s) :=
  ⟨h.cmd, by simp [h.seq], h.err, h.initd, h.events⟩

theorem after_receive (h : OwresetAt k s) (a : RxAnswer) (l : Line) (d : Nat) :
    OwresetAt (k + 1) (afterReceive a l d s) :=
  ⟨h.cmd, by simp [h.seq], h.err, h.initd, h.events⟩

/-- The accept of OWRESET with nothing else listed leaves an initialized OWC before its first Core
step (60_exceptions.md R97). -/
theorem of_accept (hinitd : s.initd = true) (hev : s.events = []) :
    OwresetAt 0 (accept 0x02#8 s) :=
  ⟨rfl, rfl, rfl, hinitd, hev⟩

/-- The invariant gives what SEQ and INITD leave open of an OWRESET before its first Core step. -/
theorem of_inv (hinv : OwcInv s) (hseq : s.seq = .run 0x02#8 0) (hinitd : s.initd = true)
    (hev : s.events = []) : OwresetAt 0 s := by
  have hcmd : 0x02#8 = s.cmd := by
    have hrange := hinv.seqInRange
    rw [SeqInRange, hseq] at hrange
    exact hrange.1
  exact ⟨hcmd.symm, hseq, hinv.errTells.1 (busy_of_run hseq), hinitd, hev⟩

end OwresetAt

/-! ## The run, for every answer of the Line -/

/-- An OWRESET begun in `s` whose reset frame the Line answered with `a` (41_reset_presence.md
R68). -/
def owresetSent (a : TxAnswer) (l : Line) (d : Nat) (s : State) : State :=
  afterTransmit resetFrame a l d (serialConfigure .reset s)

/-- An OWRESET begun in `s` whose reset frame went out and whose readback the Line answered with
`a` (41_reset_presence.md R68). -/
def owresetRead (a : RxAnswer) (l₁ l₂ : Line) (d₁ d₂ : Nat) (s : State) : State :=
  afterReceive a l₂ d₂ (owresetSent .ok l₁ d₁ s)

/-- An OWRESET begun in `s` and completed with the readback `f` (41_reset_presence.md R68). -/
def owresetReported (f : Byte) (l₁ l₂ : Line) (d₁ d₂ : Nat) (s : State) : State :=
  reportPresence (serialConfigure .data (owresetRead (.frame f) l₁ l₂ d₁ d₂ s))

section Runs

variable {s : State} {l₁ l₂ : Line} {d₁ d₂ : Nat}

theorem OwresetAt.sent (h : OwresetAt 0 s) (a : TxAnswer) (l : Line) (d : Nat) :
    OwresetAt 2 (owresetSent a l d s) :=
  (h.after_configure .reset).after_transmit resetFrame a l d

theorem OwresetAt.read (h : OwresetAt 0 s) (a : RxAnswer) (l₁ l₂ : Line) (d₁ d₂ : Nat) :
    OwresetAt 3 (owresetRead a l₁ l₂ d₁ d₂ s) :=
  (h.sent .ok l₁ d₁).after_receive a l₂ d₂

/-- Two Core steps configure the reset rate and send the reset frame. -/
theorem steps_owresetSent (h : OwresetAt 0 s) {a : TxAnswer}
    (htx : s.line.configure.transmit resetFrame s.draws = some (a, l₁, d₁)) :
    steps 2 s = .next (owresetSent a l₁ d₁ s) := by
  have hone : steps 1 s = .next (serialConfigure .reset s) :=
    steps_succ_of_next h.step_configure 0
  have htwo : step (serialConfigure .reset s) = .next (owresetSent a l₁ d₁ s) :=
    ((h.after_configure .reset).step_transmit rfl).trans
      (serialTransmit_of_some (s := serialConfigure .reset s) htx)
  exact steps_snoc hone htwo

/-- Three Core steps read the frame back, once the transmit answered `OK`. -/
theorem steps_owresetRead (h : OwresetAt 0 s) {a : RxAnswer}
    (htx : s.line.configure.transmit resetFrame s.draws = some (.ok, l₁, d₁))
    (hrx : l₁.receive d₁ = (a, l₂, d₂)) :
    steps 3 s = .next (owresetRead a l₁ l₂ d₁ d₂ s) := by
  have hread : serialReceive (owresetSent .ok l₁ d₁ s) = owresetRead a l₁ l₂ d₁ d₂ s := by
    simp [serialReceive_eq, owresetSent, owresetRead, hrx]
  exact steps_snoc (steps_owresetSent h htx)
    (((h.sent .ok l₁ d₁).step_receive rfl).trans (congrArg _ hread))

/-- A transmit that times out ends OWRESET in its third Core step (60_exceptions.md R101). -/
theorem steps_owreset_transmit_timeout (h : OwresetAt 0 s)
    (htx : s.line.configure.transmit resetFrame s.draws = some (.timeout, l₁, d₁)) :
    steps 3 s = .next (abort (owresetSent .timeout l₁ d₁ s)) :=
  steps_snoc (steps_owresetSent h htx) ((h.sent .timeout l₁ d₁).step_abort rfl)

/-- A receive that times out ends OWRESET in its fourth Core step (60_exceptions.md R101). -/
theorem steps_owreset_receive_timeout (h : OwresetAt 0 s)
    (htx : s.line.configure.transmit resetFrame s.draws = some (.ok, l₁, d₁))
    (hrx : l₁.receive d₁ = (.timeout, l₂, d₂)) :
    steps 4 s = .next (abort (owresetRead .timeout l₁ l₂ d₁ d₂ s)) :=
  steps_snoc (steps_owresetRead h htx hrx) ((h.read .timeout l₁ l₂ d₁ d₂).step_abort rfl)

/-- With a readback, OWRESET restores the data rate and completes in its fifth Core step
(41_reset_presence.md R68). -/
theorem steps_owreset_readback (h : OwresetAt 0 s) {f : Byte}
    (htx : s.line.configure.transmit resetFrame s.draws = some (.ok, l₁, d₁))
    (hrx : l₁.receive d₁ = (.frame f, l₂, d₂)) :
    steps 5 s = .next (owresetReported f l₁ l₂ d₁ d₂ s) := by
  have hread := h.read (.frame f) l₁ l₂ d₁ d₂
  exact steps_snoc (steps_snoc (steps_owresetRead h htx hrx) (hread.step_restore rfl))
    ((hread.after_configure .data).step_report rfl)

end Runs

/-! ## The ends -/

/-- Presence is a readback that differs from the reset frame (41_reset_presence.md R69). -/
@[simp] theorem presenceOf_eq (r : Byte) : presenceOf r = (r != 0xF0#8) := rfl

/-- The code of the presence result: NO_DEVICE for the reset frame itself, else NONE
(41_reset_presence.md R69). -/
@[simp] theorem presenceErr_code (r : Byte) :
    (presenceErr r).code = if r = 0xF0#8 then 1#3 else 0#3 := by
  by_cases hr : r = 0xF0#8 <;> simp [presenceErr, ErrCode.code, hr]

/-- OWRESET over, with the data rate configured last: presence, no device or a timeout, and PRESENT
tells which (41_reset_presence.md R69, R70). -/
def OwresetEnded (t : State) : Prop :=
  t.seq = .idle ∧ t.baudSel = .data ∧ t.periph = some .data ∧
    t.trace.getLast? = some (.configure .data) ∧
    (t.err = 0#3 ∨ t.err = 1#3 ∨ t.err = 2#3) ∧ (t.present = true ↔ t.err = 0#3)

/-- The completion after the data rate is restored (41_reset_presence.md R68). -/
theorem owresetEnded_reportPresence (s : State) :
    OwresetEnded (reportPresence (serialConfigure .data s)) := by
  rcases eq_or_ne s.rx 0xF0#8 with hr | hr
  · exact ⟨rfl, rfl, rfl, by simp, .inr (.inl (by simp [hr])), by simp [hr]⟩
  · exact ⟨rfl, rfl, rfl, by simp, .inl (by simp [hr]), by simp [hr]⟩

/-- The abort at the reset rate restores the data rate and reports no presence
(60_exceptions.md R101). -/
theorem owresetEnded_abort {s : State} (hcmd : s.cmd = encodeByte .owreset)
    (hbaud : s.baudSel = .reset) : OwresetEnded (abort s) := by
  rw [abort_of_reset hbaud, if_pos hcmd]
  exact ⟨rfl, rfl, rfl, by simp, .inr (.inr rfl), by simp [ErrCode.code]⟩

/-- Of an idle, initialized OWC, an OWRESET that is read back writes CMD, DATA, PRESENT and ERR,
and BAUD_SEL is DATA again (41_reset_presence.md R68 to R70). -/
theorem owresetReported_of_idle {s : State} (hinv : OwcInv s) (hseq : s.seq = .idle)
    (hinitd : s.initd = true) (r : Byte) (l : Line) (tx : List TxAnswer) (rx : List RxAnswer) :
    owresetReported r l (.listed tx rx) s.draws s.draws
        (accept 0x02#8 { s with events := [] }) = { s with
      events := [], cmd := 0x02#8, data := r, rx := r, line := .listed tx rx
      present := r != 0xF0#8, err := if r = 0xF0#8 then 1#3 else 0#3
      trace := s.trace ++ [.configure .reset, .transmit .reset 0xF0#8 .ok, .receive (.frame r),
        .configure .data] } := by
  have hidle : s.timedOut = false := hinv.timeoutPending.not_timedOut_of_idle hseq
  have hdata : s.baudSel = .data := hinv.baudFollowsSeq.data (by simp [hseq])
  have hperiph : s.periph = some .data := hdata ▸ hinv.periphAgrees (.inl hinitd)
  simp [owresetReported, owresetRead, owresetSent, reportPresence, finish, serialConfigure,
    afterReceive, afterTransmit, accept, encodeByte_init, rxFrameOr, Line.configure, resetFrame,
    hseq, hidle, hdata, hperiph]

/-- A Line that is no `BITSTORE` answers the reset frame (20_memory.md R46). -/
theorem transmit_resetFrame_of_not_bitStore {l : Line} (hl : ∀ q p, l ≠ .bitStore q p) (n : Nat) :
    ∃ a l' n', l.configure.transmit resetFrame n = some (a, l', n') := by
  rcases e : l.configure.transmit resetFrame n with _ | ⟨a, l', n'⟩
  · obtain ⟨-, q, p, hq⟩ := (transmit_eq_none_iff _ _ _).1 e
    cases l with
    | listed tx rx => cases hq
    | echo last => cases hq
    | bitStore q p => exact absurd rfl (hl q p)
  · exact ⟨a, l', n', rfl⟩

/-! ## The obligations -/

/-- Settles O27: the accept and the five Core steps of an OWRESET that is read back. -/
theorem owresetReportsPresence : Obligations.OwresetReportsPresence := by
  intro s r tx rx hinv hseq hinitd hev hline
  have haccept := step_of_cmd_write_idle hinv.errProduced hseq hev
  have hat : OwresetAt 0 (accept 0x02#8 { s with events := [] }) := .of_accept hinitd rfl
  have htx : s.line.configure.transmit resetFrame s.draws =
      some (.ok, .listed tx (.frame r :: rx), s.draws) := by rw [hline]; rfl
  rw [steps_succ_of_next haccept, steps_owreset_readback hat htx rfl,
    owresetReported_of_idle hinv hseq hinitd]

/-- Settles O29: the Line's answers decide between two aborts and the completion, and each configures
the data rate last. -/
theorem owresetEndsAtDataRate : Obligations.OwresetEndsAtDataRate := by
  intro s hinv hev hseq hinitd hline
  have hat : OwresetAt 0 s := .of_inv hinv hseq hinitd hev
  obtain ⟨a, l₁, d₁, htx⟩ := transmit_resetFrame_of_not_bitStore hline s.draws
  cases a with
  | timeout =>
    exact ⟨3, _, by omega, steps_owreset_transmit_timeout hat htx,
      owresetEnded_abort hat.cmd rfl⟩
  | ok =>
    rcases hrx : l₁.receive d₁ with ⟨f | _, l₂, d₂⟩
    · exact ⟨5, _, le_rfl, steps_owreset_readback hat htx hrx, owresetEnded_reportPresence _⟩
    · exact ⟨4, _, by omega, steps_owreset_receive_timeout hat htx hrx,
        owresetEnded_abort hat.cmd rfl⟩

end Sys2Proof.Machine
end

section
/-! PROOFS. Byte I/O (43_byte_io.md): Core turns with and without the polls of WAIT between them,
the runs of WBYTE and RBYTE on every Line that answers each call, and the round trip. -/

namespace Sys2Proof.Machine

/-! ## Core turns in a row -/

/-- `n` turns of the Core lead from `s` to `t`, each from a state with an ERR code that OWC produces
(60_exceptions.md R99, 93_implementation_defined.md K9). -/
inductive CoreRun (s : State) : Nat → State → Prop
  | refl : CoreRun s 0 s
  | snoc {n : Nat} {t u : State} (hrun : CoreRun s n t) (herr : reservedErr t.err = false)
      (hturn : coreTurn t = .next u) : CoreRun s (n + 1) u

/-- The Core's turn leaves the schedule to the Host (20_memory.md R48). -/
theorem coreTurn_events {s t : State} (h : coreTurn s = .next t) : t.events = s.events := by
  rcases coreTurn_next_cases h with ⟨_, rfl⟩ | ⟨_, _, _, _, rfl⟩ | ⟨_, _, _, _, _, h⟩
  · rfl
  · rfl
  · exact (exec_frame h).events

namespace CoreRun

variable {s t : State} {n : Nat}

theorem events_eq (h : CoreRun s n t) : t.events = s.events := by
  induction h with
  | refl => rfl
  | snoc _ _ hturn ih => exact (coreTurn_events hturn).trans ih

/-- With nothing listed, the Core's turns are the steps (DESIGN CHOICE, log 1). -/
theorem steps_eq (h : CoreRun s n t) (hev : s.events = []) : steps n s = .next t := by
  induction h with
  | refl => rfl
  | snoc hrun herr hturn ih =>
    have hnil := hrun.events_eq.trans hev
    exact steps_snoc ih ((step_of_err herr).trans ((move_nil hnil).trans hturn))

end CoreRun

/-! ## The loop WAIT -/

/-- The Host's schedule and its record of reads set. -/
def Overlay.schedule (es : List Event) (rs : List (Nat × Byte)) : Overlay where
  crc := id
  hosterr := id
  events := fun _ => es
  reads := fun _ => rs

/-- The step of a listed WAIT is a poll (30_encoding.md R64). -/
theorem step_of_wait {s : State} {es : List Event} (herr : reservedErr s.err = false)
    (hev : s.events = .wait :: es) : step s = .next { s with
      events := if s.busy then .core :: .wait :: es else es
      reads := s.reads ++ [(2, s.statusByte)] } :=
  (step_of_err herr).trans ((move_cons hev).trans (waitPoll_eq _))

/-- A poll that finds BUSY 0 ends WAIT (30_encoding.md R64). -/
theorem step_of_wait_idle {s : State} {es : List Event} (herr : reservedErr s.err = false)
    (hseq : s.seq = .idle) (hev : s.events = .wait :: es) :
    step s = .next { s with events := es, reads := s.reads ++ [(2, s.statusByte)] } := by
  rw [step_of_wait herr hev, if_neg (by simp [not_busy_of_idle hseq])]

/-- With a Core turn listed next, a step is the Core's turn (20_memory.md R48). -/
theorem step_of_core {s : State} {es : List Event} (herr : reservedErr s.err = false)
    (hev : s.events = .core :: es) : step s = coreTurn { s with events := es } :=
  (step_of_err herr).trans (move_cons hev)

/-- A poll that finds BUSY, and the Core turn it asks for (30_encoding.md R64). -/
theorem steps_poll_busy {s t : State} (herr : reservedErr s.err = false) (hb : s.busy = true)
    (hturn : coreTurn s = .next t) (es : List Event) (rs : List (Nat × Byte)) :
    ∃ rs', steps 2 { s with events := .wait :: es, reads := rs } =
      .next { t with events := .wait :: es, reads := rs' } := by
  have hpoll := step_of_wait (s := { s with events := .wait :: es, reads := rs }) herr rfl
  rw [if_pos (by exact hb)] at hpoll
  have hoverlay := (Overlay.schedule (.wait :: es) (rs ++ [(2, s.statusByte)])).coreTurn_apply s rfl
  rw [hturn] at hoverlay
  have hcore := step_of_core (es := .wait :: es) (s := { s with
    events := .core :: .wait :: es, reads := rs ++ [(2, s.statusByte)] }) herr rfl
  exact ⟨_, steps_snoc (steps_succ_of_next hpoll 0) (hcore.trans hoverlay)⟩

/-- Between the polls of WAIT the Core makes the turns it would have made without them. -/
theorem CoreRun.steps_polled {s t : State} {n : Nat} (h : CoreRun s n t) (es : List Event)
    (rs : List (Nat × Byte)) :
    ∃ m rs', steps m { s with events := .wait :: es, reads := rs } =
      .next { t with events := .wait :: es, reads := rs' } := by
  induction h with
  | refl => exact ⟨0, rs, rfl⟩
  | @snoc n t u _ herr hturn ih =>
    obtain ⟨m, rs', hm⟩ := ih
    cases hb : t.busy with
    | false =>
      rw [coreTurn_idle (idle_of_not_busy hb)] at hturn
      cases hturn
      exact ⟨m, rs', hm⟩
    | true =>
      obtain ⟨rs'', h2⟩ := steps_poll_busy herr hb hturn es rs'
      exact ⟨m + 2, rs'', (steps_add hm).trans h2⟩

/-- The write of a command and WAIT, in a program: the Host goes on when the command is over
(30_encoding.md R63, R64). -/
theorem steps_command_wait {s t : State} {v : Byte} {es : List Event} {n : Nat}
    (herr : reservedErr s.err = false) (hseq : s.seq = .idle)
    (hev : s.events = hw 0 v :: .wait :: es)
    (hrun : CoreRun (accept v s) n t) (hterr : reservedErr t.err = false) (hidle : t.seq = .idle) :
    ∃ m rs, steps m s = .next { t with events := es, reads := rs } := by
  have haccept := step_of_cmd_write_idle herr hseq hev
  obtain ⟨m, rs, hm⟩ := hrun.steps_polled es s.reads
  exact ⟨m + 1 + 1, _, (steps_succ_of_next haccept _).trans
    (steps_snoc hm (step_of_wait_idle hterr hidle rfl))⟩

/-! ## One Core step past dispatch -/

/-- Command byte `c` is in progress after `k` serial calls: dispatch let it pass, no abort is
pending, and ERR is as accept left it (60_exceptions.md R97, R98, R101). -/
structure Running (c : Byte) (k : Nat) (s : State) : Prop where
  seq : s.seq = .run c k
  initd : s.initd = true
  timedOut : s.timedOut = false
  err : s.err = ErrCode.none.code

/-- A bus command that dispatch let pass and no timeout ends runs its body (60_exceptions.md R98,
R99). -/
theorem Running.busStep_eq {c : Byte} {k : Nat} {s : State} (h : Running c k s)
    (body : Nat → Result) : busStep s body = body k := by
  cases k with
  | zero => rw [busStep_first h.seq, if_pos h.initd]
  | succ k => simp [busStep_later h.seq, h.timedOut]

/-- A run of the Core with one turn more of a command in progress. -/
theorem CoreRun.turn {s t u : State} {c : Byte} {n k : Nat} (h : CoreRun s n t)
    (ht : Running c k t) (hturn : coreTurn t = .next u) : CoreRun s (n + 1) u :=
  h.snoc (by rw [ht.err]; decide) hturn

section Turns

variable {s : State} {k : Nat}

/-- WBYTE in slot `k` (43_byte_io.md R77). -/
theorem coreTurn_wbyte_slot (h : Running 0x05#8 k s) (hk : k < 8) :
    coreTurn s = serialTransmit (bitFrame ((writeSlot k s).shift.getLsbD 0)) (writeSlot k s) := by
  rw [coreTurn_run (i := .wbyte) h.seq rfl, exec, execWbyte, h.busStep_eq, if_pos hk]

/-- WBYTE completes (43_byte_io.md R77). -/
theorem coreTurn_wbyte_end (h : Running 0x05#8 8 s) :
    coreTurn s = .next (finish (writeSlot 8 s)) := by
  rw [coreTurn_run (i := .wbyte) h.seq rfl, exec, execWbyte, h.busStep_eq]
  rfl

/-- RBYTE sends the probe of slot `k` (43_byte_io.md R78). -/
theorem coreTurn_rbyte_probe (h : Running 0x06#8 (2 * k) s) (hk : k < 8) :
    coreTurn s = serialTransmit probeFrame (readSlot k s) := by
  rw [coreTurn_run (i := .rbyte) h.seq rfl, exec, execRbyte, h.busStep_eq,
    if_neg (by omega), if_pos (by omega), Nat.mul_div_cancel_left k (by decide)]

/-- RBYTE reads the probe of slot `k` back (43_byte_io.md R78). -/
theorem coreTurn_rbyte_readback (h : Running 0x06#8 (2 * k + 1) s) (hk : k < 8) :
    coreTurn s = .next (serialReceive s) := by
  rw [coreTurn_run (i := .rbyte) h.seq rfl, exec, execRbyte, h.busStep_eq,
    if_pos (by omega), if_pos (by omega)]

/-- RBYTE completes: DATA takes SHIFT (43_byte_io.md R78). -/
theorem coreTurn_rbyte_end (h : Running 0x06#8 16 s) :
    coreTurn s = .next (finish { readSlot 8 s with data := (readSlot 8 s).shift }) := by
  rw [coreTurn_run (i := .rbyte) h.seq rfl, exec, execRbyte, h.busStep_eq]
  rfl

end Turns

/-! ## WBYTE -/

/-- The Lines `L i` answer bit `i` of `v` sent as a frame with `OK`, and go on as `L (i + 1)`;
`d` is the count of draws, which stays (20_memory.md R41). -/
def TakesByte (v : Byte) (d : Nat) (L : Nat → Line → Prop) : Prop :=
  ∀ i < 8, ∀ l, L i l →
    ∃ l', l.transmit (bitFrame (v.getLsbD i)) d = some (.ok, l', d) ∧ L (i + 1) l'

/-- WBYTE accepted in `s`, with the bits below `i` sent and slot `i` begun, the Line being `l`
(43_byte_io.md R77). -/
def wbyteAt (i : Nat) (l : Line) (s : State) : State :=
  { accept 0x05#8 s with
    seq := .run 0x05#8 i
    shift := s.data >>> i
    bitcnt := Fin.ofNat 9 i
    line := l
    trace := s.trace ++ (List.range i).map fun j =>
      .transmit s.baudSel (bitFrame (s.data.getLsbD j)) .ok }

/-- WBYTE completed (43_byte_io.md R77). -/
def wbyteDone (l : Line) (s : State) : State := finish (wbyteAt 8 l s)

/-- Sending the bit of slot `i` and beginning the next slot. -/
theorem writeSlot_afterTransmit_wbyteAt (i : Nat) (l l' : Line) (s : State) :
    writeSlot (i + 1) (afterTransmit (bitFrame (s.data.getLsbD i)) .ok l' s.draws (wbyteAt i l s)) =
      wbyteAt (i + 1) l' s := by
  simp [writeSlot, afterTransmit, wbyteAt, shiftOut, txTimedOut, List.range_succ,
    BitVec.shiftRight_add, accept]

/-- WBYTE in the state before slot `i` is in progress after `i` calls. -/
theorem running_of_writeSlot {s t : State} {l : Line} {i : Nat} (hinitd : s.initd = true)
    (ht : writeSlot i t = wbyteAt i l s) : Running 0x05#8 i t :=
  ⟨congrArg State.seq ht, (congrArg State.initd ht).trans hinitd, congrArg State.timedOut ht,
    congrArg State.err ht⟩

/-- The eight slots of WBYTE, on a Line that takes the byte. -/
theorem coreRun_wbyteAt {s : State} {L : Nat → Line → Prop} (hinitd : s.initd = true)
    (hL : TakesByte s.data s.draws L) (h0 : L 0 s.line) {i : Nat} (hi : i ≤ 8) :
    ∃ l t, L i l ∧ CoreRun (accept 0x05#8 s) i t ∧ writeSlot i t = wbyteAt i l s := by
  induction i with
  | zero =>
    refine ⟨s.line, _, h0, .refl, ?_⟩
    simp [writeSlot, wbyteAt, State.byteOperand, accept]
  | succ i ih =>
    obtain ⟨l, t, hl, hrun, ht⟩ := ih (by omega)
    obtain ⟨l', htx, hl'⟩ := hL i (by omega) l hl
    have hat := running_of_writeSlot hinitd ht
    have hbit : (wbyteAt i l s).shift.getLsbD 0 = s.data.getLsbD i := by simp [wbyteAt]
    have hsent : coreTurn t =
        .next (afterTransmit (bitFrame (s.data.getLsbD i)) .ok l' s.draws (wbyteAt i l s)) := by
      rw [coreTurn_wbyte_slot hat (by omega), ht, hbit]
      exact serialTransmit_of_some htx
    exact ⟨l', _, hl', hrun.turn hat hsent, writeSlot_afterTransmit_wbyteAt i l l' s⟩

/-- WBYTE, from its accept to its end (43_byte_io.md R77). -/
theorem coreRun_wbyteDone {s : State} {L : Nat → Line → Prop} (hinitd : s.initd = true)
    (hL : TakesByte s.data s.draws L) (h0 : L 0 s.line) :
    ∃ l, L 8 l ∧ CoreRun (accept 0x05#8 s) 9 (wbyteDone l s) := by
  obtain ⟨l, t, hl, hrun, ht⟩ := coreRun_wbyteAt hinitd hL h0 le_rfl
  have hat := running_of_writeSlot hinitd ht
  have hend : coreTurn t = .next (wbyteDone l s) := by rw [coreTurn_wbyte_end hat, ht, wbyteDone]
  exact ⟨l, hl, hrun.turn hat hend⟩

/-! ## RBYTE -/

/-- The Lines `L i` answer probe `i` with `OK` and the readback `f i`, and go on as `L (i + 1)`;
`d` is the count of draws, which stays (20_memory.md R41, R42). -/
def AnswersProbes (f : Nat → Byte) (d : Nat) (L : Nat → Line → Prop) : Prop :=
  ∀ i < 8, ∀ l, L i l → ∃ m l', l.transmit probeFrame d = some (.ok, m, d) ∧
    m.receive d = (.frame (f i), l', d) ∧ L (i + 1) l'

/-- SHIFT after `i` readbacks (43_byte_io.md R78). -/
def assembled (f : Nat → Byte) : Nat → Byte
  | 0 => 0x00#8
  | i + 1 => shiftIn (assembled f i) (readBit (f i))

/-- The readback before slot `i`, which is an earlier command's before slot 0. -/
def lastReadback (old : Byte) (f : Nat → Byte) : Nat → Byte
  | 0 => old
  | i + 1 => f i

/-- The serial operations of one slot of RBYTE (43_byte_io.md R78). -/
def probeOps (rate : Rate) (r : Byte) : List SerialOp :=
  [.transmit rate probeFrame .ok, .receive (.frame r)]

/-- RBYTE accepted in `s`, with the readbacks below `i` taken in and slot `i` begun, the Line being
`l` (43_byte_io.md R78). -/
def rbyteAt (f : Nat → Byte) (i : Nat) (l : Line) (s : State) : State :=
  { accept 0x06#8 s with
    seq := .run 0x06#8 (2 * i)
    shift := assembled f i
    bitcnt := Fin.ofNat 9 i
    rx := lastReadback s.rx f i
    line := l
    trace := s.trace ++ (List.range i).flatMap fun j => probeOps s.baudSel (f j) }

/-- RBYTE completed (43_byte_io.md R78). -/
def rbyteDone (f : Nat → Byte) (l : Line) (s : State) : State :=
  finish { rbyteAt f 8 l s with data := assembled f 8 }

/-- One slot of RBYTE, and the beginning of the next. -/
theorem readSlot_afterReceive_rbyteAt (f : Nat → Byte) (i : Nat) (l m l' : Line) (s : State) :
    readSlot (i + 1) (afterReceive (.frame (f i)) l' s.draws
      (afterTransmit probeFrame .ok m s.draws (rbyteAt f i l s))) = rbyteAt f (i + 1) l' s := by
  simp [readSlot, afterReceive, afterTransmit, rbyteAt, assembled, lastReadback, probeOps,
    rxTimedOut, rxFrameOr, List.range_succ, accept, Nat.mul_add]

/-- RBYTE in the state before slot `i` is in progress after `2 * i` calls. -/
theorem running_of_readSlot {s t : State} {f : Nat → Byte} {l : Line} {i : Nat}
    (hinitd : s.initd = true) (ht : readSlot i t = rbyteAt f i l s) : Running 0x06#8 (2 * i) t :=
  ⟨congrArg State.seq ht, (congrArg State.initd ht).trans hinitd, congrArg State.timedOut ht,
    congrArg State.err ht⟩

/-- The two Core turns of a slot of RBYTE on a Line that answers them (43_byte_io.md R78). -/
theorem coreRun_rbyte_slot {s t : State} {f : Nat → Byte} {l m l' : Line} {i n : Nat}
    (hinitd : s.initd = true) (hi : i < 8) (hrun : CoreRun (accept 0x06#8 s) n t)
    (ht : readSlot i t = rbyteAt f i l s)
    (htx : l.transmit probeFrame s.draws = some (.ok, m, s.draws))
    (hrx : m.receive s.draws = (.frame (f i), l', s.draws)) :
    CoreRun (accept 0x06#8 s) (n + 2) (afterReceive (.frame (f i)) l' s.draws
      (afterTransmit probeFrame .ok m s.draws (rbyteAt f i l s))) := by
  have hat := running_of_readSlot hinitd ht
  have hprobe : coreTurn t = .next (afterTransmit probeFrame .ok m s.draws (rbyteAt f i l s)) := by
    rw [coreTurn_rbyte_probe hat hi, ht]
    exact serialTransmit_of_some htx
  have hsent : Running 0x06#8 (2 * i + 1)
      (afterTransmit probeFrame .ok m s.draws (rbyteAt f i l s)) := ⟨rfl, hinitd, rfl, rfl⟩
  have hread : coreTurn (afterTransmit probeFrame .ok m s.draws (rbyteAt f i l s)) =
      .next (afterReceive (.frame (f i)) l' s.draws
        (afterTransmit probeFrame .ok m s.draws (rbyteAt f i l s))) := by
    rw [coreTurn_rbyte_readback hsent hi, serialReceive_eq, afterTransmit_line,
      afterTransmit_draws, hrx]
  exact (hrun.turn hat hprobe).turn hsent hread

/-- The eight slots of RBYTE, on a Line that answers them. -/
theorem coreRun_rbyteAt {s : State} {f : Nat → Byte} {L : Nat → Line → Prop}
    (hinitd : s.initd = true) (hL : AnswersProbes f s.draws L) (h0 : L 0 s.line) {i : Nat}
    (hi : i ≤ 8) :
    ∃ l t, L i l ∧ CoreRun (accept 0x06#8 s) (2 * i) t ∧ readSlot i t = rbyteAt f i l s := by
  induction i with
  | zero =>
    refine ⟨s.line, _, h0, .refl, ?_⟩
    simp [readSlot, rbyteAt, assembled, lastReadback, accept]
  | succ i ih =>
    obtain ⟨l, t, hl, hrun, ht⟩ := ih (by omega)
    obtain ⟨m, l', htx, hrx, hl'⟩ := hL i (by omega) l hl
    exact ⟨l', _, hl', coreRun_rbyte_slot hinitd (by omega) hrun ht htx hrx,
      readSlot_afterReceive_rbyteAt f i l m l' s⟩

/-- RBYTE, from its accept to its end (43_byte_io.md R78). -/
theorem coreRun_rbyteDone {s : State} {f : Nat → Byte} {L : Nat → Line → Prop}
    (hinitd : s.initd = true) (hL : AnswersProbes f s.draws L) (h0 : L 0 s.line) :
    ∃ l, L 8 l ∧ CoreRun (accept 0x06#8 s) 17 (rbyteDone f l s) := by
  obtain ⟨l, t, hl, hrun, ht⟩ := coreRun_rbyteAt hinitd hL h0 le_rfl
  have hat := running_of_readSlot hinitd ht
  have hend : coreTurn t = .next (rbyteDone f l s) := by
    rw [coreTurn_rbyte_end hat, ht]
    rfl
  exact ⟨l, hl, hrun.turn hat hend⟩

/-! ## The byte assembled -/

/-- A bit taken in stands in bit 7, and the others move down by one (43_byte_io.md R78). -/
theorem getLsbD_shiftIn (v : Byte) (b : Bool) {j : Nat} (hj : j < 8) :
    (shiftIn v b).getLsbD j = if j = 7 then b else v.getLsbD (j + 1) := by
  rcases Nat.lt_succ_iff_lt_or_eq.1 hj with h7 | rfl
  · simp [shiftIn, zext8, h7, h7.ne, Nat.add_comm 1 j]
  · simp [shiftIn, zext8]

/-- After `i` readbacks the last one's bit is bit 7, and those before it stand below in their order
(43_byte_io.md R78). -/
theorem getLsbD_assembled (f : Nat → Byte) {i j : Nat} (hj : j < 8) (hij : 8 ≤ i + j) :
    (assembled f i).getLsbD j = readBit (f (i + j - 8)) := by
  induction i generalizing j with
  | zero => omega
  | succ i ih =>
    rw [assembled, getLsbD_shiftIn _ _ hj]
    split
    · next h7 => rw [show i + 1 + j - 8 = i by omega]
    · next h7 => rw [ih (by omega) (by omega), show i + (j + 1) - 8 = i + 1 + j - 8 by omega]

/-- After eight readbacks bit `j` is that of readback `j` (43_byte_io.md R79). -/
theorem getLsbD_assembled_eight (f : Nat → Byte) {j : Nat} (hj : j < 8) :
    (assembled f 8).getLsbD j = readBit (f j) := by
  rw [getLsbD_assembled f hj (by omega), Nat.add_sub_cancel_left]

/-- The byte assembled is the byte whose bits the readbacks carry. -/
theorem assembled_eq {f : Nat → Byte} {v : Byte} (h : ∀ j < 8, readBit (f j) = v.getLsbD j) :
    assembled f 8 = v :=
  BitVec.eq_of_getLsbD_eq fun j hj => (getLsbD_assembled_eight f hj).trans (h j hj)

/-! ## The Lines -/

/-- What is left of a Line that lists eight answers `OK` and the readbacks `rs`, before slot `i`. -/
def listedFrom (rs : List Byte) (tx : List TxAnswer) (rx : List RxAnswer) (i : Nat) : Line :=
  .listed (List.replicate (8 - i) .ok ++ tx) ((rs.drop i).map .frame ++ rx)

theorem answersProbes_listed {rs : List Byte} (hrs : rs.length = 8) (tx : List TxAnswer)
    (rx : List RxAnswer) (d : Nat) :
    AnswersProbes (rs.getD · 0x00#8) d fun i l => l = listedFrom rs tx rx i := by
  rintro i hi _ rfl
  have htx : List.replicate (8 - i) TxAnswer.ok = .ok :: List.replicate (8 - (i + 1)) .ok := by
    rw [show 8 - i = 8 - (i + 1) + 1 by omega, List.replicate_succ]
  have hrx : rs.drop i = rs.getD i 0x00#8 :: rs.drop (i + 1) := by
    rw [List.getD_eq_getElem _ _ (by omega), List.drop_eq_getElem_cons]
  refine ⟨.listed (List.replicate (8 - (i + 1)) .ok ++ tx) ((rs.drop i).map .frame ++ rx), _,
    ?_, ?_, rfl⟩
  · rw [listedFrom, htx]
    rfl
  · rw [hrx]
    rfl

/-- The Line is the `ECHO` double (20_memory.md R46). -/
def IsEcho (l : Line) : Prop := ∃ x, l = .echo x

theorem takesByte_echo (v : Byte) (d : Nat) : TakesByte v d fun _ => IsEcho := by
  rintro i _ _ ⟨x, rfl⟩
  exact ⟨_, rfl, _, rfl⟩

theorem answersProbes_echo (d : Nat) : AnswersProbes (fun _ => 0xFF#8) d fun _ => IsEcho := by
  rintro i _ _ ⟨x, rfl⟩
  exact ⟨_, _, rfl, rfl, _, rfl⟩

/-- The Line is the `BITSTORE` double and has taken the bits `bs`: a frame `0xFF` that nothing has
followed yet counts as the bit 1 (20_memory.md R46). -/
def Stores (bs : List Bool) (l : Line) : Prop :=
  ∃ q pend, l = .bitStore q pend ∧ (if pend then q ++ [true] else q) = bs

theorem stores_nil_iff (l : Line) : Stores [] l ↔ l = .bitStore [] false := by
  constructor
  · rintro ⟨q, pend, rfl, h⟩
    cases pend <;> simp_all
  · rintro rfl
    exact ⟨[], false, rfl, rfl⟩

/-- `BITSTORE` takes the bit of a frame sent (20_memory.md R46). -/
theorem Stores.transmit {bs : List Bool} {l : Line} (h : Stores bs l) (b : Bool) (d : Nat) :
    ∃ l', l.transmit (bitFrame b) d = some (.ok, l', d) ∧ Stores (bs ++ [b]) l' := by
  obtain ⟨q, pend, rfl, rfl⟩ := h
  rw [Line.transmit, if_neg (bitFrame_ne_resetFrame b)]
  refine ⟨_, rfl, _, _, rfl, ?_⟩
  cases b <;> simp [bitFrame]

/-- The frame in which `BITSTORE` gives a bit back (20_memory.md R46). -/
def storedFrame (b : Bool) : Byte := if b then 0xFF#8 else 0xFE#8

theorem readBit_storedFrame (b : Bool) : readBit (storedFrame b) = b := by
  cases b <;> rfl

/-- A probe of `BITSTORE` and its readback give the first bit taken, and no bit is taken for the
probe (20_memory.md R46). -/
theorem Stores.probe {b : Bool} {bs : List Bool} {l : Line} (h : Stores (b :: bs) l) (d : Nat) :
    ∃ m l', l.transmit probeFrame d = some (.ok, m, d) ∧
      m.receive d = (.frame (storedFrame b), l', d) ∧ Stores bs l' := by
  obtain ⟨q, pend, rfl, hq⟩ := h
  refine ⟨.bitStore (b :: bs) true, .bitStore bs false, ?_, rfl, bs, false, rfl, rfl⟩
  rw [Line.transmit, if_neg probeFrame_ne_resetFrame, hq]
  rfl

/-- `BITSTORE` with nothing taken before takes the byte, bit 0 first (43_byte_io.md R80). -/
theorem takesByte_bitStore (v : Byte) (d : Nat) :
    TakesByte v d fun i => Stores ((List.range i).map v.getLsbD) := by
  intro i _ l hl
  simpa [List.range_succ] using hl.transmit (v.getLsbD i) d

/-- `BITSTORE` that holds a byte gives it back, bit 0 first (43_byte_io.md R80). -/
theorem answersProbes_bitStore (v : Byte) (d : Nat) :
    AnswersProbes (fun i => storedFrame (v.getLsbD i)) d fun i =>
      Stores ((List.range' i (8 - i)).map v.getLsbD) := by
  intro i hi l hl
  rw [show 8 - i = 8 - (i + 1) + 1 by omega, List.range'_succ, List.map_cons] at hl
  exact hl.probe d

/-! ## The round trip -/

/-- The program WBYTE `v`, WAIT, RBYTE, WAIT as host accesses (30_encoding.md R63, R64). -/
def writeThenRead (v : Byte) : List Event :=
  [hw 1 v, hw 0 0x05#8, .wait, hw 0 0x06#8, .wait]

theorem assemble_writeThenRead {v : Nat} (hv : v ≤ 255) :
    assembleProgram [.command .wbyte (some v), .wait, .command .rbyte none, .wait] =
      some (writeThenRead (BitVec.ofNat 8 v)) := by
  simp [assembleProgram, assembleLine, SourceLine.wellFormed, Instr.operandOk, hv]
  rfl

section Program

variable {s : State} {es : List Event}

/-- WBYTE and WAIT in a program (43_byte_io.md R77). -/
theorem steps_wbyte_wait {L : Nat → Line → Prop} (herr : reservedErr s.err = false)
    (hseq : s.seq = .idle) (hinitd : s.initd = true) (hev : s.events = hw 0 0x05#8 :: .wait :: es)
    (hL : TakesByte s.data s.draws L) (h0 : L 0 s.line) :
    ∃ m l rs, L 8 l ∧ steps m s = .next { wbyteDone l s with events := es, reads := rs } := by
  obtain ⟨l, hl, hrun⟩ := coreRun_wbyteDone hinitd hL h0
  obtain ⟨m, rs, hm⟩ := steps_command_wait herr hseq hev hrun rfl rfl
  exact ⟨m, l, rs, hl, hm⟩

/-- RBYTE and WAIT in a program (43_byte_io.md R78). -/
theorem steps_rbyte_wait {f : Nat → Byte} {L : Nat → Line → Prop}
    (herr : reservedErr s.err = false) (hseq : s.seq = .idle) (hinitd : s.initd = true)
    (hev : s.events = hw 0 0x06#8 :: .wait :: es)
    (hL : AnswersProbes f s.draws L) (h0 : L 0 s.line) :
    ∃ m l rs, L 8 l ∧ steps m s = .next { rbyteDone f l s with events := es, reads := rs } := by
  obtain ⟨l, hl, hrun⟩ := coreRun_rbyteDone hinitd hL h0
  obtain ⟨m, rs, hm⟩ := steps_command_wait herr hseq hev hrun rfl rfl
  exact ⟨m, l, rs, hl, hm⟩

/-- The program ends with the byte that the readbacks carry in DATA, on every Line that takes the
byte written and then answers the probes (43_byte_io.md R80). -/
theorem steps_writeThenRead {v : Byte} {f : Nat → Byte} {W R : Nat → Line → Prop}
    (hinv : OwcInv s) (hseq : s.seq = .idle) (hinitd : s.initd = true)
    (hev : s.events = writeThenRead v) (hW : TakesByte v s.draws W)
    (hR : AnswersProbes f s.draws R) (h0 : W 0 s.line) (hlink : ∀ l, W 8 l → R 0 l) :
    ∃ n t, steps n s = .next t ∧ t.seq = .idle ∧ t.events = [] ∧ t.data = assembled f 8 ∧
      R 8 t.line ∧ t.err = 0#3 := by
  have hdata := (step_of_hw hinv.errProduced hev).trans (hostWrite_data_idle
    (s := { s with events := [hw 0 0x05#8, .wait, hw 0 0x06#8, .wait] }) (not_busy_of_idle hseq) v)
  obtain ⟨m₁, l₁, rs₁, hl₁, hwrite⟩ := steps_wbyte_wait
    (s := { s with events := [hw 0 0x05#8, .wait, hw 0 0x06#8, .wait], data := v })
    hinv.errProduced hseq hinitd rfl hW h0
  obtain ⟨m₂, l₂, rs₂, hl₂, hread⟩ := steps_rbyte_wait
    (s := { wbyteDone l₁ { s with events := _, data := v } with events := _, reads := rs₁ })
    rfl rfl hinitd rfl hR (hlink l₁ hl₁)
  exact ⟨m₁ + m₂ + 1, _, (steps_succ_of_next hdata _).trans ((steps_add hwrite).trans hread),
    rfl, rfl, rfl, hl₂, rfl⟩

end Program

/-! ## The obligations -/

/-- Of an idle, initialized OWC, RBYTE writes CMD, DATA, ERR and the hidden registers, at the data
rate (43_byte_io.md R79). -/
theorem rbyteDone_of_idle {s : State} (hinv : OwcInv s) (hseq : s.seq = .idle) {rs : List Byte}
    (hrs : rs.length = 8) (l : Line) :
    rbyteDone (rs.getD · 0x00#8) l { s with events := [] } = { s with
      events := [], cmd := 0x06#8, err := 0#3, data := assembled (rs.getD · 0x00#8) 8
      shift := assembled (rs.getD · 0x00#8) 8, bitcnt := 8, rx := rs.getD 7 0x00#8, line := l
      trace := s.trace ++ rs.flatMap fun r => [.transmit .data 0xFF#8 .ok, .receive (.frame r)] } := by
  have hidle : s.timedOut = false := hinv.timeoutPending.not_timedOut_of_idle hseq
  have hdata : s.baudSel = .data := hinv.baudFollowsSeq.data (by simp [hseq])
  have hlist : (List.range 8).map (rs.getD · 0x00#8) = rs :=
    List.ext_getElem (by simp [hrs]) fun i _ hi => by
      rw [List.getElem_map, List.getElem_range, List.getD_eq_getElem _ _ hi]
  have htrace : (List.range 8).flatMap (fun j => probeOps s.baudSel (rs.getD j 0x00#8)) =
      rs.flatMap fun r => [.transmit .data 0xFF#8 .ok, .receive (.frame r)] := by
    conv_rhs => rw [← hlist, List.flatMap_map]
    rw [hdata]
    rfl
  rw [rbyteDone, rbyteAt, htrace]
  simp [finish, accept, encodeByte_init, lastReadback, ErrCode.code, hseq, hidle]

/-- Settles O32: the accept and the seventeen Core turns of an RBYTE whose eight readbacks the Line
lists. -/
theorem rbyteAssemblesLsbFirst : Obligations.RbyteAssemblesLsbFirst := by
  intro s rs tx rx hinv hseq hinitd hev hrs hline
  have haccept := step_of_cmd_write_idle hinv.errProduced hseq hev
  obtain ⟨l, rfl, hrun⟩ := coreRun_rbyteDone (s := { s with events := [] }) hinitd
    (answersProbes_listed hrs tx rx s.draws) hline
  have hend : listedFrom rs tx rx 8 = .listed tx rx := by
    simp [listedFrom, List.drop_eq_nil_of_le hrs.le]
  refine ⟨_, (steps_succ_of_next haccept 17).trans (hrun.steps_eq rfl),
    fun i hi => getLsbD_assembled_eight _ hi, ?_⟩
  rw [hend]
  exact rbyteDone_of_idle hinv hseq hrs _

/-- Settles O39: `BITSTORE` holds the bits of the byte between the two commands, and `ECHO` answers
every probe with the probe. -/
theorem writeThenReadGivesTheByteBack : Obligations.WriteThenReadGivesTheByteBack := by
  intro s v es hinv hseq hinitd hv hes hev
  rw [assemble_writeThenRead hv] at hes
  cases hes
  constructor
  · intro hline
    obtain ⟨n, t, hn, hidle, hnil, hdata, hstore, herr⟩ := steps_writeThenRead hinv hseq hinitd hev
      (takesByte_bitStore _ _) (answersProbes_bitStore _ _) ((stores_nil_iff _).2 hline)
      fun _ hl => hl
    exact ⟨n, t, hn, hidle, hnil,
      hdata.trans (assembled_eq fun j _ => readBit_storedFrame _), (stores_nil_iff _).1 hstore, herr⟩
  · intro x hline
    obtain ⟨n, t, hn, hidle, hnil, hdata, -, herr⟩ := steps_writeThenRead hinv hseq hinitd hev
      (takesByte_echo _ _) (answersProbes_echo _) ⟨x, hline⟩ fun _ hl => hl
    exact ⟨n, t, hn, hidle, hnil, hdata.trans (by decide), herr⟩

end Sys2Proof.Machine
end

section
/-! PROOFS. The Checksum Engine (44_checksum.md): the fold is GF(2)-linear and one lookup, the
residue, the checksum as a remainder by the Dallas polynomial, and the runs of CRCCLR and CRCUPD. -/

namespace Sys2Proof.Machine

/-! ## The fold is linear -/

/-- What an iteration XORs into the shifted accumulator: `0x8C` or nothing (44_checksum.md R81). -/
def feedback (b : Bool) : Byte := if b then crcPoly else 0x00#8

theorem feedback_xor (b b' : Bool) : feedback (b ^^ b') = feedback b ^^^ feedback b' := by
  revert b b'; decide

/-- One iteration as a shift and a feedback (44_checksum.md R81). -/
theorem crcBit_eq (p : Byte × Byte) :
    crcBit p = (p.1 >>> 1 ^^^ feedback ((p.1 ^^^ p.2).getLsbD 0), p.2 >>> 1) := by
  rw [crcBit, feedback]
  split <;> simp

/-- One iteration is GF(2)-linear in the accumulator and the data jointly (44_checksum.md R89). -/
theorem crcBit_xor (p q : Byte × Byte) :
    crcBit (p.1 ^^^ q.1, p.2 ^^^ q.2) =
      ((crcBit p).1 ^^^ (crcBit q).1, (crcBit p).2 ^^^ (crcBit q).2) := by
  have hmix : (p.1 ^^^ q.1) ^^^ (p.2 ^^^ q.2) = (p.1 ^^^ p.2) ^^^ (q.1 ^^^ q.2) := by ac_rfl
  simp only [crcBit_eq, hmix, BitVec.getLsbD_xor (x := p.1 ^^^ p.2), feedback_xor,
    BitVec.ushiftRight_xor_distrib, Prod.mk.injEq, and_true]
  ac_rfl

/-- So is any number of iterations (44_checksum.md R89). -/
theorem crcBits_xor (n : Nat) (p q : Byte × Byte) :
    crcBits n (p.1 ^^^ q.1, p.2 ^^^ q.2) =
      ((crcBits n p).1 ^^^ (crcBits n q).1, (crcBits n p).2 ^^^ (crcBits n q).2) := by
  induction n generalizing p q with
  | zero => rfl
  | succ n ih => rw [crcBits, crcBit_xor]; exact ih (crcBit p) (crcBit q)

/-- The fold is linear in the accumulator and the byte jointly (44_checksum.md R89). -/
theorem crcFold_xor (acc acc' d d' : Byte) :
    crcFold (acc ^^^ acc') (d ^^^ d') = crcFold acc d ^^^ crcFold acc' d' :=
  congrArg Prod.fst (crcBits_xor 8 (acc, d) (acc', d'))

/-- The checksum is linear from any two accumulators (44_checksum.md R89). -/
theorem foldl_crcFold_xor {a b : List Byte} (h : a.length = b.length) (c c' : Byte) :
    (List.zipWith (· ^^^ ·) a b).foldl crcFold (c ^^^ c') =
      a.foldl crcFold c ^^^ b.foldl crcFold c' := by
  induction a generalizing b c c' with
  | nil => cases List.length_eq_zero_iff.1 h.symm; rfl
  | cons x xs ih =>
    obtain ⟨y, ys, rfl⟩ := List.exists_cons_of_length_eq_add_one h.symm
    simpa [crcFold_xor] using ih (Nat.succ.inj h) (crcFold c x) (crcFold c' y)

/-! ## The table and the residue -/

/-- While the accumulator and the data are equal no iteration takes the XOR with the polynomial
(44_checksum.md R86). -/
theorem crcBits_self (n : Nat) (c : Byte) : crcBits n (c, c) = (c >>> n, c >>> n) := by
  induction n generalizing c with
  | zero => simp [crcBits]
  | succ n ih =>
    have hbit : crcBit (c, c) = (c >>> 1, c >>> 1) := by simp [crcBit]
    rw [crcBits, hbit, ih, ← BitVec.shiftRight_add, Nat.add_comm]

/-- Folding the accumulator's own value clears it (44_checksum.md R84). -/
theorem crcFold_self (c : Byte) : crcFold c c = 0x00#8 := by
  rw [crcFold, crcBits_self]
  exact BitVec.ushiftRight_eq_zero (Nat.le_refl 8)

/-- The table form of the fold: `(acc, d)` is `(acc ^^^ d, 0)` plus `(d, d)`, and the latter folds to
0 (44_checksum.md R86). -/
theorem crcFold_eq_lookup (acc d : Byte) : crcFold acc d = crcFold (acc ^^^ d) 0x00#8 := by
  have h := crcFold_xor (acc ^^^ d) d 0x00#8 d
  simpa [BitVec.xor_assoc, crcFold_self] using h

/-- The table has its one 0 at 0 (44_checksum.md R86, R87). -/
theorem crcFold_zero_right_eq_zero_iff (x : Byte) : crcFold x 0x00#8 = 0x00#8 ↔ x = 0x00#8 := by
  revert x; decide

/-- A fold gives 0 exactly when the byte folded is the accumulator (44_checksum.md R87). -/
theorem crcFold_eq_zero_iff (c x : Byte) : crcFold c x = 0x00#8 ↔ x = c := by
  rw [crcFold_eq_lookup, crcFold_zero_right_eq_zero_iff, BitVec.xor_eq_zero_iff, eq_comm]

/-- Two bytes that fold to the same value differ by one that folds from 0 to 0
(44_checksum.md R87). -/
theorem crcFold_injective (c : Byte) : Function.Injective (crcFold c) := by
  intro x y h
  have hzero : crcFold 0x00#8 (x ^^^ y) = 0x00#8 := by
    simpa [h] using crcFold_xor c c x y
  exact BitVec.xor_eq_zero_iff.1 ((crcFold_eq_zero_iff _ _).1 hzero)

/-- The checksum of a block with one byte more (44_checksum.md R82). -/
theorem crcOf_concat (data : List Byte) (x : Byte) :
    crcOf (data ++ [x]) = crcFold (crcOf data) x := by
  simp [crcOf]

/-! ## The checksum as a polynomial -/

open Polynomial

/-- The polynomials of bytes add as the bytes XOR (44_checksum.md R88). -/
theorem reflectedPoly_xor (a b : Byte) :
    reflectedPoly (a ^^^ b) = reflectedPoly a + reflectedPoly b := by
  rw [reflectedPoly, reflectedPoly, reflectedPoly, ← Finset.sum_add_distrib]
  refine Finset.sum_congr rfl fun k _ => ?_
  rw [BitVec.getLsbD_xor]
  cases a.getLsbD (7 - k) <;> cases b.getLsbD (7 - k) <;> simp [CharTwo.add_self_eq_zero]

/-- The polynomial is `x⁸` plus that of `0x8C` (44_checksum.md R88). -/
theorem dallasPoly_eq : dallasPoly = X ^ 8 + reflectedPoly 0x8C#8 := by
  have hterms : reflectedPoly 0x8C#8 = 1 + X ^ 4 + X ^ 5 := by
    simp [reflectedPoly, Finset.sum_range_succ]
  rw [dallasPoly, hterms]
  ring

/-- A shift right is a multiplication by `x`, but for the `x⁸` that the lowest bit becomes. -/
theorem reflectedPoly_mul_X (a : Byte) :
    reflectedPoly a * X = reflectedPoly (a >>> 1) + if a.getLsbD 0 then X ^ 8 else 0 := by
  have hshift (k : ℕ) : (a >>> 1).getLsbD (7 - k) = a.getLsbD (1 + (7 - k)) := by simp
  have htop : a.getLsbD 8 = false := BitVec.getLsbD_of_ge _ _ (Nat.le_refl 8)
  simp only [reflectedPoly, hshift, htop, Finset.sum_range_succ, Finset.sum_range_zero, add_mul,
    ite_mul, zero_mul, ← pow_succ, Nat.reduceSub, Nat.reduceAdd, Bool.false_eq_true, if_false,
    zero_add]

/-- The feedback replaces an `x⁸` shifted out by its remainder (44_checksum.md R88). -/
theorem reflectedPoly_feedback (b : Bool) :
    (if b then X ^ 8 else 0) + reflectedPoly (feedback b) = if b then dallasPoly else 0 := by
  cases b
  · simp [feedback, reflectedPoly]
  · rw [dallasPoly_eq]; rfl

/-- An iteration on no data is a multiplication by `x` modulo the Dallas polynomial
(44_checksum.md R88). -/
theorem dallasPoly_dvd_crcBit (a : Byte) :
    dallasPoly ∣ reflectedPoly a * X + reflectedPoly (crcBit (a, 0x00#8)).1 := by
  have h : reflectedPoly a * X + reflectedPoly (crcBit (a, 0x00#8)).1 =
      if a.getLsbD 0 then dallasPoly else 0 := by
    rw [reflectedPoly_mul_X, crcBit_eq, BitVec.xor_zero, reflectedPoly_xor,
      ← reflectedPoly_feedback]
    linear_combination CharTwo.add_self_eq_zero (reflectedPoly (a >>> 1))
  rw [h]
  split
  · exact dvd_rfl
  · exact dvd_zero _

/-- Over GF(2) `p ∣ a + b` says that `a` and `b` have the same remainder: of a product, one factor
may be replaced by what has the same remainder. -/
theorem dallasPoly_dvd_trans {a b c f : Polynomial (ZMod 2)} (hab : dallasPoly ∣ a + b)
    (hbc : dallasPoly ∣ b * f + c) : dallasPoly ∣ a * f + c := by
  have h : a * f + c = (a + b) * f + (b * f + c) := by
    linear_combination -(CharTwo.add_self_eq_zero (b * f))
  rw [h]
  exact dvd_add (hab.mul_right f) hbc

/-- `n` iterations on no data are a multiplication by `xⁿ` (44_checksum.md R88). -/
theorem dallasPoly_dvd_crcBits (n : Nat) (a : Byte) :
    dallasPoly ∣ reflectedPoly a * X ^ n + reflectedPoly (crcBits n (a, 0x00#8)).1 := by
  induction n generalizing a with
  | zero => simp [crcBits, CharTwo.add_self_eq_zero]
  | succ n ih =>
    have hdata : crcBit (a, 0x00#8) = ((crcBit (a, 0x00#8)).1, 0x00#8) := by simp [crcBit]
    have h := dallasPoly_dvd_trans (dallasPoly_dvd_crcBit a) (ih (crcBit (a, 0x00#8)).1)
    rwa [crcBits, hdata, pow_succ', ← mul_assoc]

/-- A fold takes the remainder of the accumulator and the byte, times `x⁸` (44_checksum.md R88). -/
theorem dallasPoly_dvd_crcFold (acc d : Byte) :
    dallasPoly ∣ (reflectedPoly acc + reflectedPoly d) * X ^ 8 + reflectedPoly (crcFold acc d) := by
  rw [crcFold_eq_lookup, ← reflectedPoly_xor]
  exact dallasPoly_dvd_crcBits 8 _

theorem messagePoly_concat (data : List Byte) (x : Byte) :
    messagePoly (data ++ [x]) = messagePoly data * X ^ 8 + reflectedPoly x := by
  simp [messagePoly]

/-- The checksum is the message's remainder (44_checksum.md R82, R88). -/
theorem dallasPoly_dvd_crcOf (data : List Byte) :
    dallasPoly ∣ messagePoly data * X ^ 8 + reflectedPoly (crcOf data) := by
  induction data using List.reverseRecOn with
  | nil => simp [messagePoly, crcOf, reflectedPoly]
  | append_singleton data x ih =>
    rw [messagePoly_concat, crcOf_concat]
    refine dallasPoly_dvd_trans ?_ (dallasPoly_dvd_crcFold (crcOf data) x)
    have h : messagePoly data * X ^ 8 + reflectedPoly x +
        (reflectedPoly (crcOf data) + reflectedPoly x) =
        messagePoly data * X ^ 8 + reflectedPoly (crcOf data) := by
      linear_combination CharTwo.add_self_eq_zero (reflectedPoly x)
    rwa [h]

/-! ## The runs of a command that ends in its first Core step -/

/-- CRCCLR is its completion step (44_checksum.md R83). -/
theorem exec_crcclr {s : State} {c : Byte} (hseq : s.seq = .run c 0) :
    exec .crcclr s = .next (finish { s with crc := 0x00#8 }) :=
  plainStep_run hseq _

/-- CRCUPD is its completion step (44_checksum.md R84). -/
theorem exec_crcupd {s : State} {c : Byte} (hseq : s.seq = .run c 0) :
    exec .crcupd s = .next (finish { s with crc := crcFold s.crc s.data }) :=
  plainStep_run hseq _

/-- From an idle OWC, a command whose first Core step is its completion runs in two steps, and BUSY
is set and ERR is NONE in between (60_exceptions.md R97 to R99). -/
theorem steps_of_completion {s t : State} {v : Byte} {i : Instr} (herr : reservedErr s.err = false)
    (hseq : s.seq = .idle) (hev : s.events = [hw 0 v]) (hd : decodeByte v = .ok i)
    (hexec : exec i (accept v { s with events := [] }) = .next t) :
    (∃ u, steps 1 s = .next u ∧ u.busy = true ∧ u.err = 0#3) ∧ steps 2 s = .next t := by
  have hone : steps 1 s = .next (accept v { s with events := [] }) :=
    steps_succ_of_next (step_of_cmd_write_idle herr hseq hev) 0
  have hcore := step_of_run (reservedErr_accept v _) rfl (accept_seq v { s with events := [] }) hd
  exact ⟨⟨_, hone, rfl, rfl⟩, steps_snoc hone (hcore.trans hexec)⟩

/-- Of an idle OWC, a completed checksum command writes CMD, ERR and CRC (44_checksum.md R83, R84). -/
theorem finish_accept_of_idle {s : State} {v : Byte} (hseq : s.seq = .idle)
    (hv : v ≠ encodeByte .init) (c : Byte) :
    finish { accept v s with crc := c } =
      { s with cmd := v, err := 0#3, crc := c, timedOut := false } := by
  simp [finish, accept, hv, ErrCode.code, ← hseq]

/-! ## The obligations -/

/-- Settles O34: the fold is linear, and it clears the accumulator's own value. -/
theorem crcFoldIsOneLookup : Obligations.CrcFoldIsOneLookup := crcFold_eq_lookup

/-- Settles O35: a fold is injective on the 256 bytes, and gives 0 for one byte only. -/
theorem crcResidueIsZero : Obligations.CrcResidueIsZero := by
  refine ⟨fun c => (crcFold_injective c).bijective_of_finite, fun data x => ?_⟩
  rw [crcOf_concat, crcFold_eq_zero_iff]

/-- Settles O36: the fold is linear iteration by iteration, and the checksum byte by byte from 0. -/
theorem crcIsLinear : Obligations.CrcIsLinear :=
  ⟨crcFold_xor, fun _ _ h => foldl_crcFold_xor h 0x00#8 0x00#8⟩

/-- Settles O37: a fold multiplies by `x⁸` modulo the polynomial, and a message is folded byte by
byte. -/
theorem crcIsPolynomialRemainder : Obligations.CrcIsPolynomialRemainder :=
  ⟨dallasPoly_eq, dallasPoly_dvd_crcOf⟩

/-- Settles O24: the accept, and the completion that clears CRC. -/
theorem crcclrClearsCrc : Obligations.CrcclrClearsCrc := by
  refine ⟨fun _ _ => exec_crcclr, fun s herr hseq hev => ?_⟩
  refine steps_of_completion herr hseq hev (i := .crcclr) rfl ?_
  rw [exec_crcclr (accept_seq _ _),
    finish_accept_of_idle (s := { s with events := [] }) hseq (by decide)]

/-- Settles O25: the accept, and the completion that folds DATA. -/
theorem crcupdFoldsData : Obligations.CrcupdFoldsData := by
  refine ⟨fun _ _ => exec_crcupd, fun s herr hseq hev => ?_, crcFold_self, by decide, by decide,
    by decide⟩
  refine steps_of_completion herr hseq hev (i := .crcupd) rfl ?_
  rw [exec_crcupd (accept_seq _ _),
    finish_accept_of_idle (s := { s with events := [] }) hseq (by decide)]
  rfl

end Sys2Proof.Machine
end

section
/-! PROOFS. Accept, and dispatch (60_exceptions.md R93, R94, R97). -/

namespace Sys2Proof.Machine

/-! ## Accept -/

/-- The accept with the byte and the code of its table written out (60_exceptions.md R97). -/
theorem accept_eq (v : Byte) (s : State) :
    accept v s = { s with
      cmd := v, seq := .run v 0, err := 0#3, timedOut := false
      present := if v = 0x01#8 then false else s.present
      hosterr := if v = 0x01#8 then false else s.hosterr } := by
  rw [accept, encodeByte_init]
  rfl

/-! ## Dispatch -/

/-- Dispatch ends an illegal byte with ILLEGAL_CMD before it looks at INITD (60_exceptions.md R93,
R98). -/
theorem coreTurn_illegal_first {s : State} {c : Byte} (hseq : s.seq = .run c 0)
    (hc : c.toNat = 0 ∨ 9 ≤ c.toNat) : coreTurn s = .next (endWithError .illegalCmd s) := by
  obtain ⟨e, hd⟩ := (exists_decodeByte_error_iff c).2 hc
  rw [coreTurn_illegal hseq hd, illegalStep, hseq]

/-- Every bus command goes through the dispatch that refuses it while INITD is 0 (60_exceptions.md
R94, R98). -/
theorem exec_first_of_not_initd {i : Instr} {s : State} {c : Byte} (hi : i.isBus = true)
    (hseq : s.seq = .run c 0) (hinitd : s.initd = false) :
    exec i s = .next (endWithError .notInit s) := by
  have hrefused (body : Nat → Result) : busStep s body = .next (endWithError .notInit s) := by
    rw [busStep_first hseq, hinitd, if_neg Bool.false_ne_true]
  cases i with
  | owreset | wbit | rbit | wbyte | rbyte =>
    unfold exec
    exact hrefused _
  | init | crcclr | crcupd => cases hi

/-! ## The obligations -/

/-- Settles O7: the listed write is the accept while idle, and sets only HOSTERR while busy. -/
theorem acceptStartsCommand : Obligations.AcceptStartsCommand := by
  intro s v es herr hev
  refine ⟨fun hidle => ?_, fun hbusy => ⟨_, step_of_busy_write herr hbusy (.inl hev), rfl, rfl, rfl⟩⟩
  rw [step_of_cmd_write_idle herr hidle hev, accept_eq]

/-- Settles O11: with nothing scheduled and with a Core turn scheduled, the step is the Core's turn,
and dispatch rejects the byte. -/
theorem illegalCommandEndsAtDispatch : Obligations.IllegalCommandEndsAtDispatch := by
  intro s c herr hseq hc
  refine ⟨fun hev => ?_, fun es hev => ?_⟩
  · rw [step_of_err herr, move_nil hev, coreTurn_illegal_first hseq hc]
    rfl
  · rw [step_of_core herr hev, coreTurn_illegal_first (s := { s with events := es }) hseq hc]
    rfl

/-- Settles O13: dispatch refuses the five bus commands, and the first Core steps of the other three
leave ERR alone. -/
theorem busCommandNeedsInit : Obligations.BusCommandNeedsInit := by
  intro i s c hseq
  refine ⟨fun hi hinitd => ?_, ?_⟩
  · have hbus : i.isBus = true := by rcases hi with rfl | rfl | rfl | rfl | rfl <;> rfl
    exact exec_first_of_not_initd hbus hseq hinitd
  · rintro (rfl | rfl | rfl)
    · exact ⟨_, exec_init_first hseq, rfl⟩
    · exact ⟨_, exec_crcclr hseq, rfl⟩
    · exact ⟨_, exec_crcupd hseq, rfl⟩

end Sys2Proof.Machine
end

section
/-! PROOFS. A Core step (60_exceptions.md R98, R99): refused at dispatch, aborted, a serial call, or
the completion, for all commands at once. -/

namespace Sys2Proof

/-- Whether the command's next serial call, after `k` of them, is a `SerialConfigure`
(40_init.md R65, 41_reset_presence.md R68). -/
def Instr.configuresAfter (i : Instr) (k : Nat) : Bool :=
  match i with
  | .init => k == 0
  | .owreset => k == 0 || k == 3
  | .wbit | .rbit | .wbyte | .rbyte | .crcclr | .crcupd => false

/-- A receive follows a transmit: the call before it is neither a receive nor a configure
(20_memory.md R42). -/
theorem Instr.transmitsBefore_receive {i : Instr} {k : Nat} (h : i.receivesAfter (k + 1) = true) :
    i.receivesAfter k = false ∧ i.configuresAfter k = false := by
  cases i with
  | owreset | rbit =>
    simp only [Instr.receivesAfter, beq_iff_eq, Nat.add_eq_right, Nat.reduceEqDiff] at h
    subst h
    decide
  | rbyte =>
    simp only [Instr.receivesAfter, Bool.and_eq_true, beq_iff_eq, decide_eq_true_eq,
      Bool.and_eq_false_imp, Instr.configuresAfter, and_true] at h ⊢
    omega
  | init | wbit | wbyte | crcclr | crcupd => cases h

/-- No command begins with a receive (20_memory.md R42). -/
@[simp] theorem Instr.receivesAfter_zero (i : Instr) : i.receivesAfter 0 = false := by
  cases i <;> rfl

/-- INIT calls nothing but its one configure (40_init.md R65). -/
theorem Instr.isBus_of_not_configures {i : Instr} {k : Nat} (hk : k < i.serialCalls)
    (h : i.configuresAfter k = false) : i.isBus = true := by
  cases i with
  | owreset | wbit | rbit | wbyte | rbyte => rfl
  | init => simp_all [Instr.serialCalls, Instr.configuresAfter]
  | crcclr | crcupd => exact absurd hk (Nat.not_lt_zero k)

/-- Only bus commands receive (30_encoding.md R54). -/
theorem Instr.isBus_of_receives {i : Instr} {k : Nat} (h : i.receivesAfter k = true) :
    i.isBus = true := by
  cases i with
  | owreset | rbit | rbyte => rfl
  | init | wbit | wbyte | crcclr | crcupd => cases h

/-- A call that is a receive is no configure (20_memory.md R40, R42). -/
theorem Instr.not_configures_of_receives {i : Instr} {k : Nat} (h : i.receivesAfter k = true) :
    i.configuresAfter k = false := by
  cases i with
  | owreset => simp_all [Instr.receivesAfter, Instr.configuresAfter]
  | rbit | rbyte => rfl
  | init | wbit | wbyte | crcclr | crcupd => cases h

/-- Decode of a single byte is decode of that byte (30_encoding.md R52). -/
theorem decode_singleton_iff (c : Byte) (i : Instr) :
    decode [c] = .ok (i, []) ↔ decodeByte c = .ok i := by
  cases hd : decodeByte c <;> simp [decode, hd]

end Sys2Proof

namespace Sys2Proof.Machine

/-- A command's byte decodes to it (30_encoding.md R54). -/
theorem decodeByte_encodeByte (i : Instr) : decodeByte (encodeByte i) = .ok i :=
  (decodeByte_eq_ok_iff _ _).2 rfl

/-! ## The cases of a Core step -/

/-- SHIFT and BITCNT set: the two registers that a slot of WBYTE or RBYTE writes before its frame
(10_state.md R28). -/
def withSlot (shift : Byte) (bitcnt : Fin 9) (s : State) : State :=
  { s with shift := shift, bitcnt := bitcnt }

/-- What the last Core step of `i` makes of the state (60_exceptions.md R99). -/
def completion : Instr → State → State
  | .init, s => finish { s with initd := true }
  | .owreset, s => reportPresence s
  | .wbit, s => finish s
  | .rbit, s => finish { s with data := zext8 (readBit s.rx) }
  | .wbyte, s => finish (writeSlot 8 s)
  | .rbyte, s => finish { readSlot 8 s with data := (readSlot 8 s).shift }
  | .crcclr, s => finish { s with crc := 0x00#8 }
  | .crcupd, s => finish { s with crc := crcFold s.crc s.data }

/-- The next serial call of `i` is due after `k` of them: dispatch let the command pass, and no
abort is pending (60_exceptions.md R98, R99, R101). -/
structure CallDue (i : Instr) (k : Nat) (s : State) : Prop where
  seq : ∃ c, s.seq = .run c k
  lt : k < i.serialCalls
  initd : i.isBus = true → k = 0 → s.initd = true
  timedOut : k ≠ 0 → s.timedOut = false

/-- Everything a Core step of `i` from `s` can do when it answers a next state (60_exceptions.md
R98, R99, R101). -/
inductive CoreStep (i : Instr) (s : State) : State → Prop
  | refused {c : Byte} (hbus : i.isBus = true) (hseq : s.seq = .run c 0)
      (hinitd : s.initd = false) : CoreStep i s (endWithError .notInit s)
  | aborted {c : Byte} {k : Nat} (hbus : i.isBus = true) (hseq : s.seq = .run c (k + 1))
      (ht : s.timedOut = true) : CoreStep i s (abort s)
  | configured {k : Nat} {r : Rate} (hdue : CallDue i k s) (hk : i.configuresAfter k = true)
      (hr : r = .reset → i = .owreset ∧ k = 0) : CoreStep i s (serialConfigure r s)
  | sent {k : Nat} {f : Byte} {a : TxAnswer} {l : Line} {d : Nat} {shift : Byte} {bitcnt : Fin 9}
      (hdue : CallDue i k s) (hk : i.receivesAfter k = false ∧ i.configuresAfter k = false)
      (htx : s.line.transmit f s.draws = some (a, l, d))
      (hslot : i ≠ .wbyte → i ≠ .rbyte → shift = s.shift ∧ bitcnt = s.bitcnt) :
      CoreStep i s (afterTransmit f a l d (withSlot shift bitcnt s))
  | received {k : Nat} (hdue : CallDue i k s) (hk : i.receivesAfter k = true) :
      CoreStep i s (serialReceive s)
  | completed {c : Byte} (hseq : s.seq = .run c i.serialCalls) : CoreStep i s (completion i s)

section Cases

variable {i : Instr} {k : Nat} {c : Byte} {s t : State}

/-- The first call of a bus command that dispatch let pass (60_exceptions.md R98). -/
theorem CallDue.first (hseq : s.seq = .run c 0) (hlt : 0 < i.serialCalls)
    (hinitd : s.initd = true) :
    CallDue i 0 s :=
  ⟨⟨c, hseq⟩, hlt, fun _ _ => hinitd, fun h => absurd rfl h⟩

/-- A later call, no abort being pending (60_exceptions.md R101). -/
theorem CallDue.later (hseq : s.seq = .run c k) (hlt : k < i.serialCalls) (hk : k ≠ 0)
    (ht : s.timedOut = false) : CallDue i k s :=
  ⟨⟨c, hseq⟩, hlt, fun _ h => absurd h hk, fun _ => ht⟩

/-- The count of calls is the one in SEQ (10_state.md R15). -/
theorem CallDue.count_eq {k' : Nat} (h : CallDue i k' s) (hseq : s.seq = .run c k) : k' = k := by
  obtain ⟨c', hc⟩ := h.seq
  cases hseq.symm.trans hc
  rfl

theorem execOwreset_coreStep (h : execOwreset s = .next t) : CoreStep .owreset s t := by
  rcases execOwreset_next_cases h with ⟨_, hseq, hinitd, rfl⟩ | ⟨_, _, hseq, ht, rfl⟩ |
    ⟨_, hseq, hinitd, rfl⟩ | ⟨_, _, _, _, hseq, ht, htx, rfl⟩ | ⟨_, hseq, ht, rfl⟩ |
    ⟨_, hseq, ht, rfl⟩ | ⟨_, hseq, _, rfl⟩
  · exact .refused rfl hseq hinitd
  · exact .aborted rfl hseq ht
  · exact .configured (.first hseq (by decide) hinitd) rfl fun _ => ⟨rfl, rfl⟩
  · exact .sent (.later hseq (by decide) (by decide) ht) ⟨rfl, rfl⟩ htx fun _ _ => ⟨rfl, rfl⟩
  · exact .received (.later hseq (by decide) (by decide) ht) rfl
  · exact .configured (.later hseq (by decide) (by decide) ht) rfl nofun
  · exact .completed (i := .owreset) hseq

theorem execWbit_coreStep (h : execWbit s = .next t) : CoreStep .wbit s t := by
  rcases execWbit_next_cases h with ⟨_, hseq, hinitd, rfl⟩ | ⟨_, _, hseq, ht, rfl⟩ |
    ⟨_, _, _, _, hseq, hinitd, htx, rfl⟩ | ⟨_, hseq, _, rfl⟩
  · exact .refused rfl hseq hinitd
  · exact .aborted rfl hseq ht
  · exact .sent (.first hseq (by decide) hinitd) ⟨rfl, rfl⟩ htx fun _ _ => ⟨rfl, rfl⟩
  · exact .completed (i := .wbit) hseq

theorem execRbit_coreStep (h : execRbit s = .next t) : CoreStep .rbit s t := by
  rcases execRbit_next_cases h with ⟨_, hseq, hinitd, rfl⟩ | ⟨_, _, hseq, ht, rfl⟩ |
    ⟨_, _, _, _, hseq, hinitd, htx, rfl⟩ | ⟨_, hseq, ht, rfl⟩ | ⟨_, hseq, _, rfl⟩
  · exact .refused rfl hseq hinitd
  · exact .aborted rfl hseq ht
  · exact .sent (.first hseq (by decide) hinitd) ⟨rfl, rfl⟩ htx fun _ _ => ⟨rfl, rfl⟩
  · exact .received (.later hseq (by decide) (by decide) ht) rfl
  · exact .completed (i := .rbit) hseq

theorem execWbyte_coreStep (h : execWbyte s = .next t) : CoreStep .wbyte s t := by
  rcases execWbyte_next_cases h with ⟨_, hseq, hinitd, rfl⟩ | ⟨_, _, hseq, ht, rfl⟩ |
    ⟨_, k, _, _, _, hseq, hk, hinitd, ht, htx, rfl⟩ | ⟨_, hseq, _, rfl⟩
  · exact .refused rfl hseq hinitd
  · exact .aborted rfl hseq ht
  · exact .sent ⟨⟨_, hseq⟩, hk, fun _ => hinitd, ht⟩ ⟨rfl, rfl⟩ htx fun h _ => absurd rfl h
  · exact .completed (i := .wbyte) hseq

theorem execRbyte_coreStep (h : execRbyte s = .next t) : CoreStep .rbyte s t := by
  rcases execRbyte_next_cases h with ⟨_, hseq, hinitd, rfl⟩ | ⟨_, _, hseq, ht, rfl⟩ |
    ⟨_, j, _, _, _, hseq, hj, hinitd, ht, htx, rfl⟩ | ⟨_, j, hseq, hj, ht, rfl⟩ | ⟨_, hseq, _, rfl⟩
  · exact .refused rfl hseq hinitd
  · exact .aborted rfl hseq ht
  · have hdue : CallDue .rbyte (2 * j) s :=
      ⟨⟨_, hseq⟩, by simp only [Instr.serialCalls]; omega, fun _ h0 => hinitd (by omega),
        fun h0 => ht (by omega)⟩
    exact .sent hdue ⟨by simp [Instr.receivesAfter], rfl⟩ htx fun _ h => absurd rfl h
  · have hdue : CallDue .rbyte (2 * j + 1) s :=
      .later hseq (by simp only [Instr.serialCalls]; omega) (by omega) ht
    refine .received hdue ?_
    simp only [Instr.receivesAfter, Bool.and_eq_true, beq_iff_eq, decide_eq_true_eq]
    omega
  · exact .completed (i := .rbyte) hseq

/-- Everything a Core step can do, for every command. -/
theorem exec_coreStep (h : exec i s = .next t) : CoreStep i s t := by
  cases i with
  | init =>
    rcases execInit_next_cases h with ⟨_, hseq, rfl⟩ | ⟨_, hseq, rfl⟩
    · exact .configured ⟨⟨_, hseq⟩, by decide, nofun, fun h0 => absurd rfl h0⟩ rfl nofun
    · exact .completed (i := .init) hseq
  | owreset => exact execOwreset_coreStep h
  | wbit => exact execWbit_coreStep h
  | rbit => exact execRbit_coreStep h
  | wbyte => exact execWbyte_coreStep h
  | rbyte => exact execRbyte_coreStep h
  | crcclr =>
    obtain ⟨_, hseq, rfl⟩ := execCrcclr_next_cases h
    exact .completed (i := .crcclr) hseq
  | crcupd =>
    obtain ⟨_, hseq, rfl⟩ := execCrcupd_next_cases h
    exact .completed (i := .crcupd) hseq

end Cases

/-! ## A call, or the end -/

@[simp] theorem withSlot_seq (v : Byte) (b : Fin 9) (s : State) :
    (withSlot v b s).seq = s.seq := rfl

@[simp] theorem completion_seq (i : Instr) (s : State) : (completion i s).seq = .idle := by
  cases i <;> rfl
@[simp] theorem completion_err (i : Instr) (s : State) :
    (completion i s).err = if i = .owreset then (presenceErr s.rx).code else s.err := by
  cases i <;> rfl
@[simp] theorem completion_present (i : Instr) (s : State) :
    (completion i s).present = if i = .owreset then presenceOf s.rx else s.present := by
  cases i <;> rfl
@[simp] theorem completion_initd (i : Instr) (s : State) :
    (completion i s).initd = if i = .init then true else s.initd := by cases i <;> rfl
@[simp] theorem completion_timedOut (i : Instr) (s : State) :
    (completion i s).timedOut = false := by
  cases i <;> rfl
@[simp] theorem completion_baudSel (i : Instr) (s : State) :
    (completion i s).baudSel = s.baudSel := by
  cases i <;> rfl
@[simp] theorem completion_periph (i : Instr) (s : State) : (completion i s).periph = s.periph := by
  cases i <;> rfl
@[simp] theorem completion_line (i : Instr) (s : State) : (completion i s).line = s.line := by
  cases i <;> rfl
@[simp] theorem completion_trace (i : Instr) (s : State) : (completion i s).trace = s.trace := by
  cases i <;> rfl

/-- What the three kinds of serial call have in common: SEQ counts the call, the trace notes it, and
no register that the Host sees changes (10_state.md R15, 60_exceptions.md R99). -/
structure Called (s t : State) : Prop where
  seq : t.seq = s.seq.called
  cmd : t.cmd = s.cmd
  data : t.data = s.data
  crc : t.crc = s.crc
  present : t.present = s.present
  err : t.err = s.err
  initd : t.initd = s.initd
  trace : ∃ op, op ≠ .cutByReset ∧ t.trace = s.trace ++ [op]

theorem called_serialConfigure (r : Rate) (s : State) : Called s (serialConfigure r s) :=
  ⟨rfl, rfl, rfl, rfl, rfl, rfl, rfl, .configure r, nofun, rfl⟩

theorem called_afterTransmit (f : Byte) (a : TxAnswer) (l : Line) (d : Nat) (v : Byte) (b : Fin 9)
    (s : State) : Called s (afterTransmit f a l d (withSlot v b s)) :=
  ⟨rfl, rfl, rfl, rfl, rfl, rfl, rfl, .transmit s.baudSel f a, nofun, rfl⟩

theorem called_serialReceive (s : State) : Called s (serialReceive s) :=
  ⟨rfl, rfl, rfl, rfl, rfl, rfl, rfl, .receive _, nofun, rfl⟩

@[simp] theorem abort_seq (s : State) : (abort s).seq = .idle := (abort_keeps s).1

@[simp] theorem abort_err (s : State) : (abort s).err = ErrCode.timeout.code := rfl

@[simp] theorem abort_cmd (s : State) : (abort s).cmd = s.cmd := by
  obtain ⟨-, -, -, -, -, hcmd, -⟩ := abort_keeps s
  exact hcmd

@[simp] theorem abort_data (s : State) : (abort s).data = s.data := by
  obtain ⟨-, -, -, hdata, -⟩ := abort_keeps s
  exact hdata

@[simp] theorem abort_initd (s : State) : (abort s).initd = s.initd := by
  obtain ⟨-, -, -, -, -, -, hinitd, -⟩ := abort_keeps s
  exact hinitd

@[simp] theorem abort_baudSel (s : State) : (abort s).baudSel = .data := by
  obtain ⟨-, hbaud, -⟩ := abort_keeps s
  exact hbaud

/-- The abort clears PRESENT of an OWRESET and keeps it of any other command (60_exceptions.md
R101). -/
@[simp] theorem abort_present (s : State) :
    (abort s).present = if s.cmd = encodeByte .owreset then false else s.present := by
  cases hb : s.baudSel with
  | data => rw [abort_of_data hb]; rfl
  | reset => rw [abort_of_reset hb]; rfl

/-- A Core step makes a serial call that is due, or ends the command. -/
theorem CoreStep.called_or_ended {i : Instr} {s t : State} (h : CoreStep i s t) :
    (∃ k, CallDue i k s ∧ Called s t) ∨ (t.seq = .idle ∧ t.timedOut = false) := by
  cases h with
  | refused _ _ _ => exact .inr ⟨rfl, rfl⟩
  | aborted _ _ _ => exact .inr ⟨abort_seq s, rfl⟩
  | configured hdue _ _ => exact .inl ⟨_, hdue, called_serialConfigure _ s⟩
  | sent hdue _ _ _ => exact .inl ⟨_, hdue, called_afterTransmit _ _ _ _ _ _ s⟩
  | received hdue _ => exact .inl ⟨_, hdue, called_serialReceive s⟩
  | completed _ => exact .inr ⟨completion_seq i s, completion_timedOut i s⟩

/-! ## A Core step answers -/

/-- The answer `r` to a Core step of `i` from `s` is a next state, or the refusal of a reset frame
on `BITSTORE` (20_memory.md R46). -/
def Answers (i : Instr) (s : State) (r : Result) : Prop :=
  (∃ t, r = .next t) ∨
    (r = .refused .bitStoreResetFrame ∧ i = .owreset ∧ ∃ q p, s.line = .bitStore q p)

section Answers

variable {i : Instr} {s : State} {c : Byte} {k : Nat}

theorem answers_next (t : State) : Answers i s (.next t) := .inl ⟨t, rfl⟩

/-- Every Line answers a data-rate frame (20_memory.md R45, R46). -/
theorem answers_serialTransmit {f : Byte} (hf : f ≠ resetFrame) (s' : State) :
    Answers i s (serialTransmit f s') := by
  obtain ⟨a, l, d, htx⟩ := transmit_some_of_ne hf s'.draws s'.line
  exact .inl ⟨_, serialTransmit_of_some htx⟩

/-- Only `BITSTORE` does not answer the reset frame (20_memory.md R46). -/
theorem answers_resetFrame (s : State) : Answers .owreset s (serialTransmit resetFrame s) := by
  rcases htx : s.line.transmit resetFrame s.draws with _ | ⟨a, l, d⟩
  · exact .inr ⟨by simp [serialTransmit, htx], rfl, ((transmit_eq_none_iff _ _ _).1 htx).2⟩
  · exact .inl ⟨_, serialTransmit_of_some htx⟩

/-- Dispatch and abort answer, so a bus command's step does when its body does. -/
theorem answers_busStep {body : Nat → Result} (hseq : s.seq = .run c k)
    (hbody : Answers i s (body k)) : Answers i s (busStep s body) := by
  cases k with
  | zero =>
    rw [busStep_first hseq]
    split
    · exact hbody
    · exact answers_next _
  | succ k =>
    rw [busStep_later hseq]
    split
    · exact answers_next _
    · exact hbody

theorem answers_plainStep {body : Nat → Result} (hseq : s.seq = .run c k)
    (hbody : Answers i s (body k)) : Answers i s (plainStep s body) := by
  rwa [plainStep_run hseq]

/-- While SEQ counts no more calls than the command makes, its Core step answers (10_state.md
R15). -/
theorem exec_answers (hseq : s.seq = .run c k) (hk : k ≤ i.serialCalls) :
    Answers i s (exec i s) := by
  cases i with
  | init =>
    refine answers_plainStep hseq ?_
    match k, hk with
    | 0, _ | 1, _ => exact answers_next _
  | owreset =>
    unfold exec execOwreset
    refine answers_busStep hseq ?_
    match k, hk with
    | 1, _ => exact answers_resetFrame s
    | 0, _ | 2, _ | 3, _ | 4, _ => exact answers_next _
  | wbit =>
    unfold exec execWbit
    refine answers_busStep hseq ?_
    match k, hk with
    | 0, _ => exact answers_serialTransmit (bitFrame_ne_resetFrame _) s
    | 1, _ => exact answers_next _
  | rbit =>
    unfold exec execRbit
    refine answers_busStep hseq ?_
    match k, hk with
    | 0, _ => exact answers_serialTransmit probeFrame_ne_resetFrame s
    | 1, _ | 2, _ => exact answers_next _
  | wbyte =>
    simp only [Instr.serialCalls] at hk
    unfold exec execWbyte
    refine answers_busStep hseq ?_
    simp only
    split
    · exact answers_serialTransmit (bitFrame_ne_resetFrame _) _
    · rw [if_pos (by omega)]
      exact answers_next _
  | rbyte =>
    unfold exec execRbyte
    simp only [Instr.serialCalls] at hk
    refine answers_busStep hseq ?_
    simp only
    split
    · rw [if_pos (by omega)]
      exact answers_next _
    · split
      · exact answers_serialTransmit probeFrame_ne_resetFrame _
      · rw [if_pos (by omega)]
        exact answers_next _
  | crcclr | crcupd =>
    refine answers_plainStep hseq ?_
    match k, hk with
    | 0, _ => exact answers_next _

end Answers

/-! ## The agents -/

/-- Everything a step can do, by the agent that moves: the Core, listed or not; a reset; a host
access; or a poll, which changes only the Host's data (20_memory.md R48). -/
theorem step_agent_cases {s t : State} (h : step s = .next t) :
    (∃ es, (s.events = [] ∨ s.events = .core :: es) ∧ coreTurn { s with events := es } = .next t) ∨
    (∃ es, s.events = .hardwareReset :: es ∧ t = hardwareReset { s with events := es }) ∨
    (∃ acc es, s.events = .host acc :: es ∧ hostAccess acc { s with events := es } = .next t) ∨
    (∃ es rs, t = { s with events := es, reads := rs }) := by
  rcases step_next_cases h with ⟨hev, h⟩ | ⟨es, hev, h⟩ | hreset | hhost | ⟨es, _, h⟩
  · exact .inl ⟨s.events, .inl hev, h⟩
  · exact .inl ⟨es, .inr hev, h⟩
  · exact .inr (.inl hreset)
  · exact .inr (.inr (.inl hhost))
  · rw [waitPoll_eq] at h
    cases h
    exact .inr (.inr (.inr ⟨_, _, rfl⟩))

end Sys2Proof.Machine
end

section
/-! PROOFS. The invariant of the whole machine: reset, every step, and what it says of every run. -/

namespace Sys2Proof.Machine

/-! ## The parts of the invariant -/

section Parts

variable {s t : State} {c : Byte} {k : Nat} {i : Instr}

/-- SEQ runs the byte in CMD (10_state.md R15, R16). -/
theorem SeqInRange.cmd_eq (hs : SeqInRange s) (hseq : s.seq = .run c k) : c = s.cmd := by
  rw [SeqInRange, hseq] at hs
  exact hs.1

/-- What SEQ in range says of a legal command in progress (10_state.md R15). -/
theorem SeqInRange.of_run (hs : SeqInRange s) (hseq : s.seq = .run c k)
    (hd : decodeByte c = .ok i) :
    k ≤ i.serialCalls ∧ (i.isBus = true → k ≠ 0 → s.initd = true) := by
  rw [SeqInRange, hseq] at hs
  simpa [hd] using hs.2

theorem seqInRange_of_idle (h : s.seq = .idle) : SeqInRange s := by
  rw [SeqInRange, h]
  trivial

theorem seqInRange_of_run (hseq : s.seq = .run c k) (hcmd : c = s.cmd) (hd : decodeByte c = .ok i)
    (hk : k ≤ i.serialCalls) (hinitd : i.isBus = true → k ≠ 0 → s.initd = true) : SeqInRange s := by
  rw [SeqInRange, hseq]
  simpa [hd] using ⟨hcmd, hk, hinitd⟩

/-- An illegal byte in progress is before its first Core step (60_exceptions.md R93). -/
theorem SeqInRange.eq_zero_of_illegal {e : DecodeError} (hs : SeqInRange s)
    (hseq : s.seq = .run c k) (hd : decodeByte c = .error e) : k = 0 := by
  rw [SeqInRange, hseq] at hs
  simpa [hd] using hs.2

theorem errTells_of_none (h : t.err = ErrCode.none.code) : ErrTells t := by
  simp [ErrTells, h, ErrCode.code]

/-- NO_DEVICE tells of an OWRESET that is over (41_reset_presence.md R69). -/
theorem errTells_of_noDevice (h : t.err = 1#3) (hidle : t.seq = .idle)
    (hcmd : decodeByte t.cmd = .ok .owreset) (hp : t.present = false) : ErrTells t := by
  simp [ErrTells, h, not_busy_of_idle hidle, hcmd, hp, ErrCode.code]

/-- While a command is in progress ERR is NONE (60_exceptions.md R97). -/
theorem ErrTells.err_of_run (hs : ErrTells s) (hseq : s.seq = .run c k) :
    s.err = ErrCode.none.code := hs.1 (busy_of_run hseq)

/-- A trace with one operation more has its receives paired when that operation, if it is a receive,
follows a transmit that answered `OK` (20_memory.md R42). -/
theorem ReceivesPaired.append {tr : List SerialOp} {op : SerialOp} (htr : ReceivesPaired tr)
    (hop : ∀ a, op = .receive a → ∃ pre r f, tr = pre ++ [.transmit r f .ok]) :
    ReceivesPaired (tr ++ [op]) := by
  intro pre a post h
  rcases List.eq_nil_or_concat post with rfl | ⟨post, x, rfl⟩
  · obtain ⟨rfl, hlast⟩ := List.append_inj' h rfl
    exact hop a (List.singleton_inj.1 hlast)
  · rw [List.concat_eq_append, ← List.cons_append, ← List.append_assoc] at h
    exact htr pre a post (List.append_inj_left' h rfl)

theorem periphAgrees_of_some (h : t.periph = some t.baudSel) : PeriphAgrees t := fun _ => h

theorem timeoutPending_of_not (h : t.timedOut = false) : TimeoutPending t := by
  simp [TimeoutPending, h]

theorem receiveReady_of_idle (h : t.seq = .idle) : ReceiveReady t := by
  simp [ReceiveReady, h]

end Parts

/-! ## A Core step keeps them -/

section CoreSteps

variable {i : Instr} {k : Nat} {s t : State}

/-- An ERR code of the five is none that stops the machine (93_implementation_defined.md K9). -/
theorem reservedErr_code (e : ErrCode) : reservedErr e.code = false := by
  cases e <;> rfl

/-- A Core step leaves ERR or writes one of the five codes (60_exceptions.md R90). -/
theorem CoreStep.err_eq (h : CoreStep i s t) : t.err = s.err ∨ ∃ e : ErrCode, t.err = e.code := by
  cases h with
  | refused => exact .inr ⟨.notInit, rfl⟩
  | aborted => exact .inr ⟨.timeout, rfl⟩
  | configured | sent | received => exact .inl rfl
  | completed _ =>
    rw [completion_err]
    split
    · exact .inr ⟨_, rfl⟩
    · exact .inl rfl

/-- A bus command that makes a serial call found INITD set (60_exceptions.md R94). -/
theorem CallDue.initd_of_bus (hdue : CallDue i k s) (hs : SeqInRange s)
    (hseq : s.seq = .run (encodeByte i) k) (hbus : i.isBus = true) : s.initd = true := by
  by_cases hk : k = 0
  · exact hdue.initd hbus hk
  · exact (hs.of_run hseq (decodeByte_encodeByte i)).2 hbus hk

theorem CoreStep.seqInRange (h : CoreStep i s t) (hs : SeqInRange s)
    (hseq : s.seq = .run (encodeByte i) k) : SeqInRange t := by
  rcases h.called_or_ended with ⟨k', hdue, hcall⟩ | ⟨hidle, _⟩
  · obtain rfl := hdue.count_eq hseq
    refine seqInRange_of_run (by rw [hcall.seq, hseq]; rfl) ?_ (decodeByte_encodeByte i) hdue.lt
      fun hbus _ => hcall.initd.trans (hdue.initd_of_bus hs hseq hbus)
    rw [hcall.cmd, hs.cmd_eq hseq]
  · exact seqInRange_of_idle hidle

/-- Only a configure changes the peripheral's rate, and INITD is set when INIT has configured
(10_state.md R26, 40_init.md R65). -/
theorem CoreStep.periphAgrees (h : CoreStep i s t) (hs : PeriphAgrees s) (hr : SeqInRange s)
    (hseq : s.seq = .run (encodeByte i) k) : PeriphAgrees t := by
  cases h with
  | refused _ _ _ => exact fun hp => hs (.inl (by simpa using hp))
  | aborted _ _ _ =>
    cases hb : s.baudSel with
    | data =>
      rw [abort_of_data hb]
      exact fun hp => hs (.inl (by simpa using hp))
    | reset =>
      rw [abort_of_reset hb]
      exact periphAgrees_of_some rfl
  | configured _ _ _ => exact periphAgrees_of_some rfl
  | sent hdue hk _ _ =>
    obtain rfl := hdue.count_eq hseq
    have hbus := Instr.isBus_of_not_configures hdue.lt hk.2
    exact fun _ => hs (.inl (hdue.initd_of_bus hr hseq hbus))
  | received hdue hk =>
    obtain rfl := hdue.count_eq hseq
    exact fun _ => hs (.inl (hdue.initd_of_bus hr hseq (Instr.isBus_of_receives hk)))
  | completed hc =>
    rw [PeriphAgrees, completion_periph, completion_baudSel]
    intro hp
    by_cases hi : i = .init
    · subst hi
      cases hseq.symm.trans hc
      exact hs (.inr hseq)
    · exact hs (.inl (by simpa [hi] using hp))

/-- The end of a command writes the ERR code that tells of it (60_exceptions.md R90). -/
theorem CoreStep.errTells (h : CoreStep i s t) (hs : ErrTells s) (hr : SeqInRange s)
    (hseq : s.seq = .run (encodeByte i) k) : ErrTells t := by
  have hnone := hs.err_of_run hseq
  have hcmd : decodeByte s.cmd = .ok i := (decodeByte_eq_ok_iff _ _).2 (hr.cmd_eq hseq).symm
  cases h with
  | refused hbus _ hinitd => simp [ErrTells, State.busy, ErrCode.code, hcmd, hbus, hinitd]
  | aborted hbus hlater _ =>
    cases hseq.symm.trans hlater
    have hinitd := (hr.of_run hseq (decodeByte_encodeByte i)).2 hbus (by omega)
    simp [ErrTells, State.busy, ErrCode.code, hcmd, hbus, hinitd]
  | configured | sent | received => exact errTells_of_none hnone
  | completed _ =>
    by_cases hi : i = .owreset
    · subst hi
      by_cases hrx : s.rx = 0xF0#8
      · exact errTells_of_noDevice (by simp [hrx]) rfl hcmd (by simp [hrx])
      · refine errTells_of_none ?_
        rw [completion_err, if_pos rfl, presenceErr_code, if_neg hrx]
        rfl
    · exact errTells_of_none (by simpa [hi] using hnone)

/-- PRESENT is set only in the completion of an OWRESET, which found INITD set (10_state.md R20). -/
theorem CoreStep.presentAfterInit (h : CoreStep i s t) (hs : s.present = true → s.initd = true)
    (hr : SeqInRange s) (hseq : s.seq = .run (encodeByte i) k) :
    t.present = true → t.initd = true := by
  cases h with
  | refused | configured | sent | received => exact hs
  | aborted _ _ _ =>
    rw [abort_present, abort_initd]
    split
    · nofun
    · exact hs
  | completed hc =>
    cases hseq.symm.trans hc
    have hinitd := (hr.of_run hseq (decodeByte_encodeByte i)).2
    cases i with
    | init => exact fun _ => rfl
    | owreset => exact fun _ => hinitd rfl (by decide)
    | wbit | rbit | wbyte | rbyte | crcclr | crcupd => exact hs

/-- Only a serial call leaves an abort pending (60_exceptions.md R101). -/
theorem CoreStep.timeoutPending (h : CoreStep i s t) (hseq : s.seq = .run (encodeByte i) k) :
    TimeoutPending t := by
  rcases h.called_or_ended with ⟨_, _, hcall⟩ | ⟨_, ht⟩
  · exact fun _ => ⟨encodeByte i, k, by rw [hcall.seq, hseq]; rfl⟩
  · exact timeoutPending_of_not ht

/-- A receive comes only when it is ready (20_memory.md R42). -/
theorem receivesPaired_of_traceGrows (h : TraceGrows i s t) (hs : ReceivesPaired s.trace)
    (hready : ReceiveReady s) (hseq : s.seq = .run (encodeByte i) k) : ReceivesPaired t.trace := by
  rcases h with ht | ⟨op, hop, ht⟩
  · rwa [ht]
  · rw [ht]
    refine hs.append ?_
    rintro a rfl
    cases hop with
    | receive _ hrun hk hto =>
      cases hseq.symm.trans hrun
      exact hready _ _ i hseq (decodeByte_encodeByte i) hk hto

/-- A receive can be due after the next call only when that call is a transmit
(20_memory.md R42). -/
theorem receiveReady_of_called (hseq : s.seq = .run (encodeByte i) k) (ht : t.seq = s.seq.called)
    (htx : i.receivesAfter k = false → i.configuresAfter k = false → t.timedOut = false →
      ∃ pre r f, t.trace = pre ++ [.transmit r f .ok]) : ReceiveReady t := by
  intro c k' j hrun hd hrec hto
  rw [ht, hseq] at hrun
  cases hrun
  cases (decodeByte_encodeByte i).symm.trans hd
  obtain ⟨hnr, hnc⟩ := Instr.transmitsBefore_receive hrec
  exact htx hnr hnc hto

/-- Where a receive is due, the step before it was a transmit that answered `OK`
(20_memory.md R42). -/
theorem CoreStep.receiveReady (h : CoreStep i s t) (hseq : s.seq = .run (encodeByte i) k) :
    ReceiveReady t := by
  cases h with
  | refused _ _ _ => exact receiveReady_of_idle rfl
  | aborted _ _ _ => exact receiveReady_of_idle (abort_seq s)
  | configured hdue hk _ =>
    obtain rfl := hdue.count_eq hseq
    exact receiveReady_of_called hseq rfl fun _ hnc => absurd hk (by simp [hnc])
  | @sent _ f a _ _ _ _ _ _ _ _ =>
    refine receiveReady_of_called hseq rfl fun _ _ hto => ⟨s.trace, s.baudSel, f, ?_⟩
    cases a with
    | ok => rfl
    | timeout => cases hto
  | received hdue hk =>
    obtain rfl := hdue.count_eq hseq
    exact receiveReady_of_called hseq rfl fun hnr => absurd hk (by simp [hnr])
  | completed _ => exact receiveReady_of_idle (completion_seq i s)

/-- Every Core step keeps the invariant. -/
theorem exec_keeps_inv (hs : OwcInv s) (hseq : s.seq = .run (encodeByte i) k)
    (h : exec i s = .next t) : OwcInv t := by
  have hstep := exec_coreStep h
  have hturn : coreTurn s = .next t := (coreTurn_run hseq (decodeByte_encodeByte i)).trans h
  exact
    { errProduced := by
        rcases hstep.err_eq with he | ⟨e, he⟩
        · rw [he, hs.errProduced]
        · rw [he, reservedErr_code]
      seqInRange := hstep.seqInRange hs.seqInRange hseq
      baudFollowsSeq := exec_keeps_baudFollowsSeq hs.baudFollowsSeq hseq h
      periphAgrees := hstep.periphAgrees hs.periphAgrees hs.seqInRange hseq
      errTells := hstep.errTells hs.errTells hs.seqInRange hseq
      presentAfterInit := hstep.presentAfterInit hs.presentAfterInit hs.seqInRange hseq
      timeoutPending := hstep.timeoutPending hseq
      traceLegal := coreTurn_keeps_traceLegal hs.traceLegal hs.baudFollowsSeq hturn
      receivesPaired :=
        receivesPaired_of_traceGrows (exec_traceGrows h) hs.receivesPaired hs.receiveReady hseq
      receiveReady := hstep.receiveReady hseq }

end CoreSteps

/-! ## The other agents keep them -/

/-- The invariant does not speak of HOSTERR, of DATA or of the Host's data. -/
theorem OwcInv.host_side {s : State} (hs : OwcInv s) (h : Bool) (d : Byte) (es : List Event)
    (rs : List (Nat × Byte)) :
    OwcInv { s with hosterr := h, data := d, events := es, reads := rs } :=
  ⟨hs.errProduced, hs.seqInRange, hs.baudFollowsSeq, hs.periphAgrees, hs.errTells,
    hs.presentAfterInit, hs.timeoutPending, hs.traceLegal, hs.receivesPaired, hs.receiveReady⟩

theorem OwcInv.with_events {s : State} (hs : OwcInv s) (es : List Event) :
    OwcInv { s with events := es } :=
  hs.host_side s.hosterr s.data es s.reads

/-- The one Core step of an illegal byte keeps the invariant (60_exceptions.md R93). -/
theorem endWithError_illegal_keeps_inv {s : State} {c : Byte} {k : Nat} {e : DecodeError}
    (hs : OwcInv s) (hseq : s.seq = .run c k) (hd : decodeByte c = .error e) :
    OwcInv (endWithError .illegalCmd s) where
  errProduced := reservedErr_code .illegalCmd
  seqInRange := seqInRange_of_idle rfl
  baudFollowsSeq := by
    have hzero := hs.seqInRange.eq_zero_of_illegal hseq hd
    exact baudFollowsSeq_of_data (hs.baudFollowsSeq.data (by simp [hseq, hzero])) (by simp)
  periphAgrees := fun hp => hs.periphAgrees (.inl (by simpa using hp))
  errTells := by
    have hcmd : decodeByte s.cmd = .error e := hs.seqInRange.cmd_eq hseq ▸ hd
    simp [ErrTells, State.busy, ErrCode.code, hcmd]
  presentAfterInit := hs.presentAfterInit
  timeoutPending := timeoutPending_of_not rfl
  traceLegal := hs.traceLegal
  receivesPaired := hs.receivesPaired
  receiveReady := receiveReady_of_idle rfl

/-- Every turn of the Core keeps the invariant. -/
theorem coreTurn_keeps_inv {s t : State} (hs : OwcInv s) (h : coreTurn s = .next t) : OwcInv t := by
  rcases coreTurn_next_cases h with ⟨_, rfl⟩ | ⟨c, e, hseq, hd, rfl⟩ | ⟨c, k, i, hseq, hd, h⟩
  · exact hs
  · exact endWithError_illegal_keeps_inv hs hseq hd
  · obtain rfl := (decodeByte_eq_ok_iff c i).1 hd
    exact exec_keeps_inv hs hseq h

/-- Accept begins a command before its first call (60_exceptions.md R97). -/
theorem accept_keeps_inv {s : State} (hs : OwcInv s) (hb : s.busy = false) (v : Byte) :
    OwcInv (accept v s) where
  errProduced := reservedErr_accept v s
  seqInRange := by cases hd : decodeByte v <;> simp [SeqInRange, hd]
  baudFollowsSeq :=
    baudFollowsSeq_of_data (hs.baudFollowsSeq.data (by simp [idle_of_not_busy hb])) (by simp)
  periphAgrees := fun hp => hs.periphAgrees (.inl (by simpa using hp))
  errTells := errTells_of_none rfl
  presentAfterInit := by
    rw [accept_present, accept_initd]
    split
    · nofun
    · exact hs.presentAfterInit
  timeoutPending := timeoutPending_of_not rfl
  traceLegal := hs.traceLegal
  receivesPaired := hs.receivesPaired
  receiveReady := by
    intro c k i hrun _ hrec _
    cases hrun
    simp at hrec

/-- Every host access keeps the invariant. -/
theorem hostAccess_keeps_inv {acc : HostAccess} {s t : State} (hs : OwcInv s)
    (h : hostAccess acc s = .next t) : OwcInv t := by
  rcases hostAccess_next_cases h with ⟨_, _, _, _, _, rfl⟩ | ⟨v, _, hb, rfl⟩ | ⟨v, _, _, rfl⟩ |
    ⟨_, _, _, _, rfl⟩ | ⟨a, v, _, _, rfl⟩
  · exact hs.host_side true s.data s.events s.reads
  · exact accept_keeps_inv hs hb v
  · exact hs.host_side s.hosterr v s.events s.reads
  · exact hs
  · exact hs.host_side s.hosterr s.data s.events _

/-- At reset the invariant asks only for a trace whose operations are legal and whose receives are
paired (70_reset_and_hazards.md R108). -/
theorem owcInv_reset (l : Line) (d : Nat) (es : List Event) (rs : List (Nat × Byte))
    {tr : List SerialOp} (hlegal : ∀ op ∈ tr, op.legal = true) (hpair : ReceivesPaired tr) :
    OwcInv { State.reset with line := l, draws := d, trace := tr, events := es, reads := rs } where
  errProduced := reservedErr_code .none
  seqInRange := seqInRange_of_idle rfl
  baudFollowsSeq := baudFollowsSeq_of_data rfl (by simp [State.reset])
  periphAgrees := by simp [PeriphAgrees, State.reset]
  errTells := errTells_of_none rfl
  presentAfterInit := nofun
  timeoutPending := timeoutPending_of_not rfl
  traceLegal := hlegal
  receivesPaired := hpair
  receiveReady := receiveReady_of_idle rfl

/-- The reset event keeps the invariant: it notes at most its mark in the trace
(70_reset_and_hazards.md R108, R109). -/
theorem hardwareReset_keeps_inv {s : State} (hs : OwcInv s) : OwcInv (hardwareReset s) := by
  refine owcInv_reset _ _ _ _ (hardwareReset_keeps_traceLegal hs.traceLegal) ?_
  split
  · exact hs.receivesPaired.append nofun
  · exact hs.receivesPaired

/-! ## The obligations -/

/-- Settles O42: nothing is in progress at reset and the trace is empty. -/
theorem invHoldsAtReset : Obligations.InvHoldsAtReset := fun line events =>
  owcInv_reset line 0 events [] (tr := []) (by simp) (by simp [ReceivesPaired])

/-- Settles O43: the Core's turn keeps each part of the invariant, by the cases of a Core step;
accept begins a command in range; the reset event restores the reset state; nothing else touches
what the invariant speaks of. -/
theorem stepKeepsInv : Obligations.StepKeepsInv := by
  intro s t hs h
  rcases step_agent_cases h with ⟨es, _, h⟩ | ⟨es, _, rfl⟩ | ⟨acc, es, _, h⟩ | ⟨es, rs, rfl⟩
  · exact coreTurn_keeps_inv (hs.with_events es) h
  · exact hardwareReset_keeps_inv (hs.with_events es)
  · exact hostAccess_keeps_inv (hs.with_events es) h
  · exact hs.host_side s.hosterr s.data es rs

/-! ## What the invariant says of every run -/

/-- The invariant holds of every reachable state. -/
theorem Reachable.owcInv {s : State} (hs : Reachable s) : OwcInv s :=
  hs.of_kept invHoldsAtReset stepKeepsInv

/-- The five codes are all that ERR holds (10_state.md R21). -/
theorem err_of_not_reserved {e : BitVec 3} (h : reservedErr e = false) :
    e = 0#3 ∨ e = 1#3 ∨ e = 2#3 ∨ e = 3#3 ∨ e = 4#3 := by
  revert e; decide

/-- The bus commands are the bytes 2 to 6 (30_encoding.md R54, 60_exceptions.md R94). -/
theorem toNat_of_bus_byte {c : Byte} {i : Instr} (hd : decodeByte c = .ok i)
    (hbus : i.isBus = true) :
    2 ≤ c.toNat ∧ c.toNat ≤ 6 := by
  obtain rfl := (decodeByte_eq_ok_iff c i).1 hd
  cases i with
  | owreset | wbit | rbit | wbyte | rbyte => decide
  | init | crcclr | crcupd => cases hbus

/-- A code other than NONE stands only while idle (60_exceptions.md R97). -/
theorem ErrTells.not_busy {s : State} (hs : ErrTells s) (h : s.err ≠ ErrCode.none.code) :
    s.busy = false := by
  cases hb : s.busy with
  | false => rfl
  | true => exact absurd (hs.1 hb) h

/-- Where the invariant holds, the Core's turn does not fault (10_state.md R15). -/
theorem coreTurn_ne_fault {s : State} (hs : OwcInv s) (r : Fault) : coreTurn s ≠ .fault r := by
  cases hseq : s.seq with
  | idle =>
    rw [coreTurn_idle hseq]
    nofun
  | run c k =>
    cases hd : decodeByte c with
    | error e =>
      obtain rfl := hs.seqInRange.eq_zero_of_illegal hseq hd
      rw [coreTurn_illegal hseq hd, illegalStep, hseq]
      nofun
    | ok i =>
      rw [coreTurn_run hseq hd]
      rcases exec_answers hseq (hs.seqInRange.of_run hseq hd).1 with ⟨t, h⟩ | ⟨h, _⟩ <;>
        simp [h]

/-- No host access faults (20_memory.md R32, R34). -/
theorem hostAccess_ne_fault (acc : HostAccess) (s : State) (r : Fault) :
    hostAccess acc s ≠ .fault r := by
  cases acc with
  | write bits a v =>
    simp only [hostAccess]
    split
    · rcases a with _ | _ | _ | _ | a <;> simp [hostWrite]
    · nofun
  | read bits a =>
    simp only [hostAccess]
    split
    · cases hv : s.register a <;> simp [hostRead, hv]
    · nofun

/-! ## The obligations about runs -/

/-- Settles O47: the invariant shuts out both faults, the reserved ERR codes and a SEQ out of
range. -/
theorem noReachableStateFaults : Obligations.NoReachableStateFaults := by
  intro s r hreach
  have hs := hreach.owcInv
  rw [step_of_err hs.errProduced]
  rcases hev : s.events with _ | ⟨_ | _ | _ | _, es⟩
  · rw [move_nil hev]
    exact coreTurn_ne_fault hs r
  all_goals rw [move_cons hev]
  · exact hostAccess_ne_fault _ _ r
  · rw [takeEvent, waitPoll_eq]
    nofun
  · exact coreTurn_ne_fault (hs.with_events es) r
  · nofun

/-- Settles O46: the invariant pairs every receive with the transmit before it. -/
theorem receivesFollowTransmits : Obligations.ReceivesFollowTransmits := by
  intro s pre post a hreach htrace
  obtain ⟨pre', r, f, rfl⟩ := hreach.owcInv.receivesPaired pre a post htrace
  exact ⟨r, f, List.getLast?_concat⟩

/-- Settles O48: ERR is one of five codes, and the invariant says what each tells of CMD. -/
theorem errTellsHowTheCommandEnded : Obligations.ErrTellsHowTheCommandEnded := by
  intro s hreach
  have hs := hreach.owcInv
  obtain ⟨-, hnodev, htimeout, hillegal, hnotinit⟩ := hs.errTells
  rcases err_of_not_reserved hs.errProduced with he | he | he | he | he
  · exact .inl he
  all_goals have hidle := hs.errTells.not_busy (he.trans_ne (by decide))
  · obtain ⟨hd, hp⟩ := hnodev he
    exact .inr (.inl ⟨he, hidle, (decodeByte_eq_ok_iff _ _).1 hd, hp⟩)
  · obtain ⟨hinitd, i, hd, hbus⟩ := htimeout he
    exact .inr (.inr (.inl ⟨he, hidle, hinitd, toNat_of_bus_byte hd hbus⟩))
  · exact .inr (.inr (.inr (.inl ⟨he, hidle, (exists_decodeByte_error_iff _).1 (hillegal he)⟩)))
  · obtain ⟨hinitd, i, hd, hbus⟩ := hnotinit he
    exact .inr (.inr (.inr (.inr ⟨he, hidle, hinitd, toNat_of_bus_byte hd hbus⟩)))

end Sys2Proof.Machine
end

section
/-! PROOFS. What a Core step changes and what it leaves alone (10_state.md, 60_exceptions.md R99):
the frame of each command, the two components, and the writers of SEQ, INITD, PRESENT and
BAUD_SEL. -/

namespace Sys2Proof.Machine

/-! ## The registers of each command -/

section Frame

variable {i : Instr} {k : Nat} {s t : State}

/-- A command that is not OWRESET aborts at the data rate, and keeps PRESENT (60_exceptions.md
R101). -/
theorem abort_eq_endWithError (hs : OwcInv s) (hseq : s.seq = .run (encodeByte i) k)
    (hi : i ≠ .owreset) : abort s = endWithError .timeout s := by
  have hbyte : encodeByte i ≠ encodeByte .owreset := fun e => hi (encodeByte_injective e)
  have hcmd : s.cmd ≠ encodeByte .owreset := hs.seqInRange.cmd_eq hseq ▸ hbyte
  rw [abort_of_data (hs.baudFollowsSeq.data (by simp [hseq, hbyte])), if_neg hcmd]

/-- Only INIT and OWRESET configure (10_state.md R26). -/
theorem CoreStep.rates_eq (h : CoreStep i s t) (hs : OwcInv s)
    (hseq : s.seq = .run (encodeByte i) k)
    (hinit : i ≠ .init) (howr : i ≠ .owreset) : t.baudSel = s.baudSel ∧ t.periph = s.periph := by
  cases h with
  | refused _ _ _ => exact ⟨rfl, rfl⟩
  | aborted _ _ _ =>
    rw [abort_eq_endWithError hs hseq howr]
    exact ⟨rfl, rfl⟩
  | configured _ hk _ =>
    cases i with
    | init => exact absurd rfl hinit
    | owreset => exact absurd rfl howr
    | wbit | rbit | wbyte | rbyte | crcclr | crcupd => cases hk
  | sent | received => exact ⟨rfl, rfl⟩
  | completed _ => exact ⟨completion_baudSel i s, completion_periph i s⟩

/-- Of the Core steps only OWRESET's write PRESENT (10_state.md R20). -/
theorem CoreStep.present_eq (h : CoreStep i s t) (hs : OwcInv s)
    (hseq : s.seq = .run (encodeByte i) k) (hi : i ≠ .owreset) : t.present = s.present := by
  cases h with
  | refused | configured | sent | received => rfl
  | aborted _ _ _ => rw [abort_eq_endWithError hs hseq hi, endWithError_present]
  | completed _ => simp [hi]

/-- Only OWRESET, RBIT and RBYTE have a result in DATA (10_state.md R17). -/
theorem CoreStep.data_eq (h : CoreStep i s t) (howr : i ≠ .owreset) (hrbit : i ≠ .rbit)
    (hrbyte : i ≠ .rbyte) : t.data = s.data := by
  cases h with
  | refused | configured | sent | received => rfl
  | aborted _ _ _ => exact abort_data s
  | completed _ =>
    cases i with
    | owreset => exact absurd rfl howr
    | rbit => exact absurd rfl hrbit
    | rbyte => exact absurd rfl hrbyte
    | init | wbit | wbyte | crcclr | crcupd => rfl

/-- Only INIT writes INITD (10_state.md R23). -/
theorem CoreStep.initd_eq (h : CoreStep i s t) (hi : i ≠ .init) : t.initd = s.initd := by
  cases h with
  | refused | configured | sent | received => rfl
  | aborted _ _ _ => exact abort_initd s
  | completed _ => simp [hi]

/-- Only WBYTE and RBYTE have a data path (10_state.md R28). -/
theorem CoreStep.slot_eq (h : CoreStep i s t) (hw : i ≠ .wbyte) (hr : i ≠ .rbyte) :
    t.shift = s.shift ∧ t.bitcnt = s.bitcnt := by
  cases h with
  | refused | configured | received => exact ⟨rfl, rfl⟩
  | aborted _ _ _ => cases hb : s.baudSel <;> simp [abort, hb]
  | sent _ _ _ hslot => exact hslot hw hr
  | completed _ =>
    cases i with
    | wbyte => exact absurd rfl hw
    | rbyte => exact absurd rfl hr
    | init | owreset | wbit | rbit | crcclr | crcupd => exact ⟨rfl, rfl⟩

/-- A checksum command is its completion, which makes no serial call (44_checksum.md R83, R84). -/
theorem exec_checksum_eq (h : exec i s = .next t) (hi : i = .crcclr ∨ i = .crcupd) :
    ∃ c v, s.seq = .run c 0 ∧ t = finish { s with crc := v } := by
  rcases hi with rfl | rfl
  · obtain ⟨c, hseq, rfl⟩ := execCrcclr_next_cases h
    exact ⟨c, _, hseq, rfl⟩
  · obtain ⟨c, hseq, rfl⟩ := execCrcupd_next_cases h
    exact ⟨c, _, hseq, rfl⟩

end Frame

/-! ## SEQ -/

/-- How the last Core step of `i` comes about: refused at dispatch, aborted, or complete after all
its calls (60_exceptions.md R94, R98, R99, R101). -/
theorem CoreStep.end_cases {i : Instr} {c : Byte} {k : Nat} {s t : State} (h : CoreStep i s t)
    (hseq : s.seq = .run c k) (hend : t.seq = .idle) :
    (k = 0 ∧ s.initd = false ∧ t.err = 4#3) ∨ (s.timedOut = true ∧ t.err = 2#3) ∨
      k = i.serialCalls := by
  cases h with
  | refused _ hrun hinitd =>
    cases hseq.symm.trans hrun
    exact .inl ⟨rfl, hinitd, rfl⟩
  | aborted _ _ ht => exact .inr (.inl ⟨ht, rfl⟩)
  | configured | sent | received => simp [hseq] at hend
  | completed hrun =>
    cases hseq.symm.trans hrun
    exact .inr (.inr rfl)

/-- What a turn of the Core does to SEQ: nothing while idle, one serial call counted, or the end of
the command (10_state.md R15). -/
theorem coreTurn_seq_cases {s t : State} (h : coreTurn s = .next t) :
    t.seq = s.seq ∨
    (∃ c k op, s.seq = .run c k ∧ t.seq = .run c (k + 1) ∧ op ≠ .cutByReset ∧
      t.trace = s.trace ++ [op]) ∨
    ∃ c k, s.seq = .run c k ∧ t.seq = .idle ∧
      ((k = 0 ∧ t.err = 3#3) ∨ (k = 0 ∧ s.initd = false ∧ t.err = 4#3) ∨
        (s.timedOut = true ∧ t.err = 2#3) ∨
        ∃ i, decode [c] = .ok (i, []) ∧ k = i.serialCalls) := by
  rcases coreTurn_next_cases h with ⟨_, rfl⟩ | ⟨c, e, hseq, _, rfl⟩ | ⟨c, k, i, hseq, hd, h⟩
  · exact .inl rfl
  · exact .inr (.inr ⟨c, 0, hseq, rfl, .inl ⟨rfl, rfl⟩⟩)
  · have hstep := exec_coreStep h
    rcases hstep.called_or_ended with ⟨_, _, hcall⟩ | ⟨hend, _⟩
    · obtain ⟨op, hop, htrace⟩ := hcall.trace
      exact .inr (.inl ⟨c, k, op, hseq, by rw [hcall.seq, hseq]; rfl, hop, htrace⟩)
    · refine .inr (.inr ⟨c, k, hseq, hend, .inr ?_⟩)
      rcases hstep.end_cases hseq hend with hrefused | haborted | hk
      · exact .inl hrefused
      · exact .inr (.inl haborted)
      · exact .inr (.inr ⟨i, (decode_singleton_iff c i).2 hd, hk⟩)

/-- A host access keeps SEQ, or it is an accept (60_exceptions.md R97). -/
theorem hostAccess_seq_cases {acc : HostAccess} {s t : State} (h : hostAccess acc s = .next t) :
    t.seq = s.seq ∨ (s.seq = .idle ∧ ∃ v, acc = .write 8 0 v ∧ t.seq = .run v 0 ∧ t.cmd = v) := by
  rcases hostAccess_next_cases h with ⟨_, _, _, _, _, rfl⟩ | ⟨v, hacc, hb, rfl⟩ | ⟨_, _, _, rfl⟩ |
    ⟨_, _, _, _, rfl⟩ | ⟨_, _, _, _, rfl⟩
  · exact .inl rfl
  · exact .inr ⟨idle_of_not_busy hb, v, hacc, rfl, rfl⟩
  · exact .inl rfl
  · exact .inl rfl
  · exact .inl rfl

/-! ## INITD, PRESENT and BAUD_SEL -/

section Writers

variable {s t : State}

/-- Of the Core's turns only INIT's completion writes INITD (10_state.md R23). -/
theorem coreTurn_initd_cases (h : coreTurn s = .next t) :
    t.initd = s.initd ∨ (s.seq = .run 0x01#8 1 ∧ t.seq = .idle ∧ t.initd = true) := by
  rcases coreTurn_next_cases h with ⟨_, rfl⟩ | ⟨_, _, _, _, rfl⟩ | ⟨c, k, i, hseq, hd, h⟩
  · exact .inl rfl
  · exact .inl rfl
  · by_cases hi : i = .init
    · subst hi
      obtain rfl := (decodeByte_eq_ok_iff c _).1 hd
      rcases execInit_next_cases h with ⟨_, _, rfl⟩ | ⟨_, hrun, rfl⟩
      · exact .inl rfl
      · cases hseq.symm.trans hrun
        exact .inr ⟨hseq, rfl, rfl⟩
    · exact .inl ((exec_coreStep h).initd_eq hi)

/-- Of the Core's turns only an OWRESET's last writes PRESENT (10_state.md R20). -/
theorem coreTurn_present_cases (hs : OwcInv s) (h : coreTurn s = .next t) :
    t.present = s.present ∨ ∃ k, s.seq = .run 0x02#8 k ∧ t.seq = .idle := by
  rcases coreTurn_next_cases h with ⟨_, rfl⟩ | ⟨_, _, _, _, rfl⟩ | ⟨c, k, i, hseq, hd, h⟩
  · exact .inl rfl
  · exact .inl rfl
  · obtain rfl := (decodeByte_eq_ok_iff c i).1 hd
    have hstep := exec_coreStep h
    by_cases hi : i = .owreset
    · subst hi
      rcases hstep.called_or_ended with ⟨_, _, hcall⟩ | ⟨hend, _⟩
      · exact .inl hcall.present
      · exact .inr ⟨k, hseq, hend⟩
    · exact .inl (hstep.present_eq hs hseq hi)

/-- A host access keeps INITD, and of them only the accept of INIT writes PRESENT
(10_state.md R20, R23). -/
theorem hostAccess_initd_present {acc : HostAccess} (h : hostAccess acc s = .next t) :
    t.initd = s.initd ∧
      (t.present = s.present ∨
        (s.busy = false ∧ acc = .write 8 0 0x01#8 ∧ t.present = false)) := by
  rcases hostAccess_next_cases h with ⟨_, _, _, _, _, rfl⟩ | ⟨v, rfl, hb, rfl⟩ | ⟨_, _, _, rfl⟩ |
    ⟨_, _, _, _, rfl⟩ | ⟨_, _, _, _, rfl⟩
  · exact ⟨rfl, .inl rfl⟩
  · refine ⟨rfl, ?_⟩
    by_cases hv : v = encodeByte .init
    · exact .inr ⟨hb, by rw [hv, encodeByte_init], by simp [hv]⟩
    · exact .inl (by simp [hv])
  · exact ⟨rfl, .inl rfl⟩
  · exact ⟨rfl, .inl rfl⟩
  · exact ⟨rfl, .inl rfl⟩

/-- A Core step changes BAUD_SEL only with a `SerialConfigure` of its new value, and to RESET only
as OWRESET's first (10_state.md R26). -/
theorem CoreStep.baudSel_cases {i : Instr} (h : CoreStep i s t) :
    t.baudSel = s.baudSel ∨
    (t.trace = s.trace ++ [.configure t.baudSel] ∧ t.periph = some t.baudSel ∧
      (t.baudSel = .reset → i = .owreset ∧ ∃ c, s.seq = .run c 0)) := by
  cases h with
  | refused | sent | received => exact .inl rfl
  | aborted _ _ _ =>
    cases hb : s.baudSel with
    | data =>
      rw [abort_of_data hb]
      exact .inl hb
    | reset =>
      rw [abort_of_reset hb]
      exact .inr ⟨rfl, rfl, nofun⟩
  | configured hdue _ hr =>
    refine .inr ⟨rfl, rfl, fun hreset => ?_⟩
    obtain ⟨hi, rfl⟩ := hr hreset
    exact ⟨hi, hdue.seq⟩
  | completed _ => exact .inl (completion_baudSel i s)

/-- So does the Core's turn (10_state.md R26). -/
theorem coreTurn_baudSel_cases (h : coreTurn s = .next t) :
    t.baudSel = s.baudSel ∨
    (t.trace = s.trace ++ [.configure t.baudSel] ∧ t.periph = some t.baudSel ∧
      (t.baudSel = .reset → s.seq = .run 0x02#8 0)) := by
  rcases coreTurn_next_cases h with ⟨_, rfl⟩ | ⟨_, _, _, _, rfl⟩ | ⟨c, k, i, hseq, hd, h⟩
  · exact .inl rfl
  · exact .inl rfl
  · obtain rfl := (decodeByte_eq_ok_iff c i).1 hd
    rcases (exec_coreStep h).baudSel_cases with hk | ⟨htrace, hp, hr⟩
    · exact .inl hk
    · refine .inr ⟨htrace, hp, fun hreset => ?_⟩
      obtain ⟨rfl, c, hc⟩ := hr hreset
      cases hseq.symm.trans hc
      exact hseq

/-- No host access selects a rate (70_reset_and_hazards.md R117). -/
theorem hostAccess_baudSel {acc : HostAccess} (h : hostAccess acc s = .next t) :
    t.baudSel = s.baudSel := by
  rcases hostAccess_next_cases h with ⟨_, _, _, _, _, rfl⟩ | ⟨_, _, _, rfl⟩ | ⟨_, _, _, rfl⟩ |
    ⟨_, _, _, _, rfl⟩ | ⟨_, _, _, _, rfl⟩ <;> rfl

end Writers

/-! ## The obligations -/

/-- Settles O51: the frame of every command, and for each register the commands that write it. -/
theorem coreStepFrame : Obligations.CoreStepFrame := by
  intro s t c k i hs hseq hd h
  obtain rfl := (decodeByte_eq_ok_iff c i).1 ((decode_singleton_iff c i).1 hd)
  have hframe := exec_frame h
  have hstep := exec_coreStep h
  refine ⟨hframe.cmd, hframe.hosterr, hframe.events, hframe.reads, hframe.crc,
    hstep.rates_eq hs hseq, hstep.present_eq hs hseq, hstep.data_eq, hstep.initd_eq,
    hstep.slot_eq, fun hi => ?_⟩
  obtain ⟨_, _, _, rfl⟩ := exec_checksum_eq h hi
  exact ⟨rfl, rfl, rfl⟩

/-- Settles O52: a Core step that leaves OWC busy is a serial call. -/
theorem resultsOnlyAtTheEnd : Obligations.ResultsOnlyAtTheEnd := by
  intro s t h hbusy
  rcases coreTurn_next_cases h with ⟨_, rfl⟩ | ⟨_, _, _, _, rfl⟩ | ⟨_, _, _, _, _, h⟩
  · exact ⟨rfl, rfl, rfl, rfl, rfl, rfl⟩
  · cases hbusy
  · rcases (exec_coreStep h).called_or_ended with ⟨_, _, hcall⟩ | ⟨hend, _⟩
    · exact ⟨hcall.data, hcall.crc, hcall.present, hcall.err, hcall.initd, hcall.cmd⟩
    · rw [not_busy_of_idle hend] at hbusy
      cases hbusy

/-- Settles O53: a transport command commutes with a change of CRC, and a checksum command is one
Core step that reads CRC, DATA and SEQ. -/
theorem checksumAndTransportAreSeparate : Obligations.ChecksumAndTransportAreSeparate := by
  refine ⟨fun i s x hclr hupd =>
    (Overlay.mk (fun _ => x) id id id).exec_apply_of_transport s hclr hupd, ?_⟩
  rintro i s s' t (rfl | rfl) hcrc hdata hseq h
  · obtain ⟨c, hrun, rfl⟩ := execCrcclr_next_cases h
    exact exec_crcclr (hseq ▸ hrun)
  · obtain ⟨c, hrun, rfl⟩ := execCrcupd_next_cases h
    rw [hcrc, hdata]
    exact exec_crcupd (hseq ▸ hrun)

/-- Settles O54: the step's event tells an accept, a Core turn and a reset apart, and a Core turn
counts a call or ends the command. -/
theorem seqMovesAreAcceptCallAndEnd : Obligations.SeqMovesAreAcceptCallAndEnd := by
  intro s t h
  rcases step_agent_cases h with ⟨es, hev, h⟩ | ⟨es, hev, rfl⟩ | ⟨acc, es, hev, h⟩ | ⟨es, rs, rfl⟩
  · have hcore : s.events = [] ∨ ∃ es, s.events = .core :: es := hev.imp_right fun hev => ⟨es, hev⟩
    rcases coreTurn_seq_cases h with hk | hcall | hend
    · exact .inl hk
    · exact .inr (.inr (.inl ⟨hcore, hcall⟩))
    · exact .inr (.inr (.inr (.inr ⟨hcore, hend⟩)))
  · by_cases hidle : s.seq = .idle
    · exact .inl hidle.symm
    · exact .inr (.inr (.inr (.inl ⟨hidle, rfl, es, hev⟩)))
  · rcases hostAccess_seq_cases h with hk | ⟨hidle, v, rfl, hseq, hcmd⟩
    · exact .inl hk
    · exact .inr (.inl ⟨hidle, v, es, hev, hseq, hcmd⟩)
  · exact .inl rfl

/-- Settles O56: of the steps that are no reset, only those of the Core and the accept of INIT write
either. -/
theorem initdAndPresentWriters : Obligations.InitdAndPresentWriters := by
  intro s t hs h hnr
  rcases step_agent_cases h with ⟨es, _, h⟩ | ⟨es, hev, _⟩ | ⟨acc, es, hev, h⟩ | ⟨es, rs, rfl⟩
  · exact ⟨(coreTurn_initd_cases h).resolve_left,
      fun hne => .inr ((coreTurn_present_cases (hs.with_events es) h).resolve_left hne)⟩
  · exact absurd hev (hnr es)
  · obtain ⟨hinitd, hpresent⟩ := hostAccess_initd_present h
    refine ⟨fun hne => absurd hinitd hne, fun hne => .inl ?_⟩
    obtain ⟨hb, rfl, hp⟩ := hpresent.resolve_left hne
    exact ⟨hb, ⟨es, hev⟩, hp⟩
  · exact ⟨fun hne => absurd rfl hne, fun hne => absurd rfl hne⟩

/-- Settles O57: only a Core turn changes BAUD_SEL, and by the baud invariant a rate that was RESET
was an OWRESET's. -/
theorem baudSelChangesWithConfigure : Obligations.BaudSelChangesWithConfigure := by
  intro s t hs h hnr hne
  rcases step_agent_cases h with ⟨es, _, h⟩ | ⟨es, hev, _⟩ | ⟨acc, es, _, h⟩ | ⟨es, rs, rfl⟩
  · obtain ⟨htrace, hperiph, hreset⟩ := (coreTurn_baudSel_cases h).resolve_left hne
    refine ⟨htrace, hperiph, hreset, fun hdata => ?_⟩
    have hwas : s.baudSel = .reset := by
      cases hb : s.baudSel with
      | data => exact absurd (hdata.trans hb.symm) hne
      | reset => rfl
    obtain ⟨k, hseq, _⟩ := hs.baudFollowsSeq.1 hwas
    exact ⟨k, hseq⟩
  · exact absurd hev (hnr es)
  · exact absurd (hostAccess_baudSel h) hne
  · exact absurd rfl hne

end Sys2Proof.Machine
end

section
/-! PROOFS. Decode of a command, STATUS, the accesses that are refused, and the reset event
(30_encoding.md, 10_state.md R18, 20_memory.md R32 and R34, 70_reset_and_hazards.md R108). -/

namespace Sys2Proof.Machine

/-! ## STATUS -/

/-- The fields of the STATUS byte, by their place (10_state.md R18). -/
theorem statusByte_bits (s : State) :
    s.statusByte.getLsbD 0 = s.busy ∧ s.statusByte.getLsbD 1 = s.present ∧
    s.statusByte.extractLsb' 2 3 = s.err ∧ s.statusByte.getLsbD 5 = s.baudSel.bit ∧
    s.statusByte.getLsbD 6 = s.initd ∧ s.statusByte.getLsbD 7 = s.hosterr := by
  have herr : s.statusByte.extractLsb' 2 3 = s.err := BitVec.eq_of_getLsbD_eq fun j hj => by
    simp only [State.statusByte, BitVec.getLsbD_extractLsb', BitVec.getLsbD_append]
    simp [hj, Nat.add_comm 2 j]
  refine ⟨?_, ?_, herr, ?_, ?_, ?_⟩ <;>
    simp only [State.statusByte, BitVec.getLsbD_append, BitVec.getLsbD_ofBool] <;> simp

theorem busy_iff_not_idle (s : State) : s.busy = true ↔ s.seq ≠ .idle :=
  ⟨fun hb hidle => by simp [not_busy_of_idle hidle] at hb, busy_of_not_idle⟩

/-- STATUS.BAUD is 1 exactly at the reset rate (10_state.md R22). -/
theorem rate_bit_iff (r : Rate) : r.bit = true ↔ r = .reset := by
  cases r <;> simp [Rate.bit]

/-! ## Reset -/

/-- With nothing listed, an idle OWC waits (70_reset_and_hazards.md R108). -/
theorem steps_of_idle {s : State} (herr : reservedErr s.err = false) (hidle : s.seq = .idle)
    (hev : s.events = []) (n : Nat) : steps n s = .next s := by
  have hstep : step s = .next s :=
    (step_of_err herr).trans ((move_nil hev).trans (coreTurn_idle hidle))
  induction n with
  | zero => rfl
  | succ n ih => rw [steps_succ_of_next hstep, ih]

/-- The one entry that a reset may add to the trace is no serial operation
(70_reset_and_hazards.md R109). -/
theorem filter_trace_hardwareReset (s : State) :
    (hardwareReset s).trace.filter (· ≠ .cutByReset) = s.trace.filter (· ≠ .cutByReset) := by
  cases hb : s.busy <;> simp [hb]

/-! ## The obligations -/

/-- Settles O1: the reset event is `hardwareReset`, whose registers are those of `State.reset`. -/
theorem resetEventRestoresResetState : Obligations.ResetEventRestoresResetState := by
  have hstatus : State.reset.statusByte = 0x00#8 := by decide
  refine ⟨⟨rfl, rfl, hstatus, rfl, rfl, rfl, rfl, rfl⟩, fun s es herr hev => ?_⟩
  exact ⟨_, (step_of_err herr).trans (move_cons hev), rfl, rfl, hstatus, rfl, rfl, rfl, rfl, rfl,
    rfl, rfl, rfl, rfl, filter_trace_hardwareReset _, rfl, rfl, rfl, rfl,
    steps_of_idle (reservedErr_code .none) rfl rfl⟩

/-- Settles O2: the one byte of a command decodes to it. -/
theorem decodeInvertsEncode : Obligations.DecodeInvertsEncode := by
  intro i rest
  simp [encode, decode, decodeByte_encodeByte]

/-- Settles O5: the fields of STATUS, BUSY being a view of SEQ and BAUD one of BAUD_SEL. -/
theorem statusLayout : Obligations.StatusLayout := by
  intro s
  obtain ⟨hbusy, hpresent, herr, hbaud, hinitd, hhosterr⟩ := statusByte_bits s
  exact ⟨hbusy ▸ busy_iff_not_idle s, hpresent, herr, hbaud ▸ rate_bit_iff s.baudSel, hinitd,
    hhosterr⟩

/-- Settles O10: the width is checked before the address, and no register has an address of 4 or
more. -/
theorem otherHostAccessesAreRefused : Obligations.OtherHostAccessesAreRefused := by
  intro s bits a v es herr hev
  constructor
  · intro hbits
    rcases hev with hev | hev
    · rw [step_of_host herr hev, hostAccess, if_neg hbits]
    · rw [step_of_host herr hev, hostAccess, if_neg hbits]
  · rintro rfl ha
    obtain ⟨b, rfl⟩ := Nat.exists_eq_add_of_le' ha
    rcases hev with hev | hev
    · exact step_of_host herr hev
    · exact step_of_host herr hev

end Sys2Proof.Machine
end

section
/-! PROOFS. Every command ends (60_exceptions.md R99 to R101): the Core steps that remain, the loop
WAIT, the counts of calls, and what an abort leaves. -/

namespace Sys2Proof.Machine

/-! ## The Core steps that remain -/

/-- How many Core steps may remain of the command in progress (60_exceptions.md R99). -/
def coreStepsLeft (s : State) : Nat :=
  match s.seq with
  | .idle => 0
  | .run c k =>
    match decodeByte c with
    | .ok i => i.serialCalls + 1 - k
    | .error _ => 1

theorem coreStepsLeft_of_idle {s : State} (h : s.seq = .idle) : coreStepsLeft s = 0 := by
  simp [coreStepsLeft, h]

theorem coreStepsLeft_of_run {s : State} {c : Byte} {k : Nat} {i : Instr} (h : s.seq = .run c k)
    (hd : decodeByte c = .ok i) : coreStepsLeft s = i.serialCalls + 1 - k := by
  simp [coreStepsLeft, h, hd]

theorem coreStepsLeft_of_illegal {s : State} {c : Byte} {k : Nat} {e : DecodeError}
    (h : s.seq = .run c k) (hd : decodeByte c = .error e) : coreStepsLeft s = 1 := by
  simp [coreStepsLeft, h, hd]

/-- No command takes more than RBYTE's seventeen Core steps (70_reset_and_hazards.md R120). -/
theorem coreStepsLeft_le (s : State) : coreStepsLeft s ≤ 17 := by
  cases hseq : s.seq with
  | idle => simp [coreStepsLeft_of_idle hseq]
  | run c k =>
    cases hd : decodeByte c with
    | error e => simp [coreStepsLeft_of_illegal hseq hd]
    | ok i =>
      rw [coreStepsLeft_of_run hseq hd]
      have hcalls : i.serialCalls ≤ 16 := by cases i <;> decide
      omega

/-- The command in CMD is no OWRESET over a `BITSTORE` line, which is defined only for runs without
one (20_memory.md R46). -/
def NoResetOnBitStore (s : State) : Prop :=
    ∀ q p, s.line = .bitStore q p → s.cmd ≠ encodeByte .owreset

/-- A Line stays of its kind: only `BITSTORE` becomes `BITSTORE`. -/
theorem bitStore_of_configure {l : Line} {q : List Bool} {p : Bool}
    (h : l.configure = .bitStore q p) : ∃ q p, l = .bitStore q p := by
  cases l with
  | listed | echo => cases h
  | bitStore q p => exact ⟨q, p, rfl⟩

theorem bitStore_of_transmit {f : Byte} {n d : Nat} {a : TxAnswer} {l : Line} {q : List Bool}
    {p : Bool}
    (h : l.transmit f n = some (a, .bitStore q p, d)) : ∃ q p, l = .bitStore q p := by
  rcases l with ⟨_ | _, _⟩ | _ | ⟨q, p⟩
  · cases h
  · cases h
  · cases h
  · exact ⟨q, p, rfl⟩

theorem bitStore_of_receive {n : Nat} {l : Line} {q : List Bool} {p : Bool}
    (h : (l.receive n).2.1 = .bitStore q p) : ∃ q p, l = .bitStore q p := by
  rcases l with ⟨_, _ | _⟩ | _ | ⟨q, p⟩
  · cases h
  · cases h
  · cases h
  · exact ⟨q, p, rfl⟩

/-- So a Core step does not bring a command to `BITSTORE`. -/
theorem CoreStep.bitStore_of {i : Instr} {s t : State} (h : CoreStep i s t) {q : List Bool}
    {p : Bool}
    (hl : t.line = .bitStore q p) : ∃ q p, s.line = .bitStore q p := by
  cases h with
  | refused _ _ _ => exact ⟨q, p, hl⟩
  | aborted _ _ _ =>
    cases hb : s.baudSel with
    | data => exact ⟨q, p, by rwa [abort_of_data hb] at hl⟩
    | reset =>
      rw [abort_of_reset hb] at hl
      exact bitStore_of_configure hl
  | configured _ _ _ => exact bitStore_of_configure hl
  | sent _ _ htx _ =>
    rw [afterTransmit_line] at hl
    exact bitStore_of_transmit (hl ▸ htx)
  | received _ _ => exact bitStore_of_receive hl
  | completed _ => exact ⟨q, p, by rwa [completion_line] at hl⟩

/-- A turn of a busy Core brings the end nearer: it answers, and fewer Core steps remain
(60_exceptions.md R99, R100). -/
theorem coreTurn_progress {s : State} (hs : OwcInv s) (hl : NoResetOnBitStore s)
    (hbusy : s.busy = true) :
    ∃ t, coreTurn s = .next t ∧ OwcInv t ∧ NoResetOnBitStore t ∧ t.cmd = s.cmd ∧
      coreStepsLeft t < coreStepsLeft s := by
  obtain ⟨c, k, hseq⟩ := (busy_iff s).1 hbusy
  cases hd : decodeByte c with
  | error e =>
    obtain rfl := hs.seqInRange.eq_zero_of_illegal hseq hd
    have h : coreTurn s = .next (endWithError .illegalCmd s) := by
      rw [coreTurn_illegal hseq hd, illegalStep, hseq]
    refine ⟨_, h, coreTurn_keeps_inv hs h, hl, rfl, ?_⟩
    rw [coreStepsLeft_of_idle rfl, coreStepsLeft_of_illegal hseq hd]
    decide
  | ok i =>
    have hk := (hs.seqInRange.of_run hseq hd).1
    obtain rfl := (decodeByte_eq_ok_iff c i).1 hd
    have hcmd := hs.seqInRange.cmd_eq hseq
    rcases exec_answers hseq hk with ⟨t, h⟩ | ⟨-, rfl, q, p, hq⟩
    · have hstep := exec_coreStep h
      have hturn := (coreTurn_run hseq hd).trans h
      have hcmd' : t.cmd = s.cmd := (exec_frame h).cmd
      refine ⟨t, hturn, coreTurn_keeps_inv hs hturn, fun q p hq => ?_, hcmd', ?_⟩
      · obtain ⟨q', p', hq'⟩ := hstep.bitStore_of hq
        exact hcmd' ▸ hl q' p' hq'
      · rw [coreStepsLeft_of_run hseq hd]
        rcases hstep.called_or_ended with ⟨k', hdue, hcall⟩ | ⟨hend, _⟩
        · have hlt := hdue.count_eq hseq ▸ hdue.lt
          have hrun : t.seq = .run (encodeByte i) (k + 1) := by rw [hcall.seq, hseq]; rfl
          rw [coreStepsLeft_of_run hrun hd]
          omega
        · rw [coreStepsLeft_of_idle hend]
          omega
    · exact absurd hcmd.symm (hl q p hq)

/-! ## A run to the end -/

/-- With nothing listed, the command in progress is over after at most the Core steps that remain
(60_exceptions.md R100). -/
theorem exists_steps_to_idle {s : State} (hs : OwcInv s) (hl : NoResetOnBitStore s)
    (hev : s.events = []) : ∃ m t, m ≤ coreStepsLeft s ∧ steps m s = .next t ∧ t.seq = .idle := by
  induction hleft : coreStepsLeft s using Nat.strong_induction_on generalizing s with
  | _ n ih =>
    cases hb : s.busy with
    | false => exact ⟨0, s, Nat.zero_le _, rfl, idle_of_not_busy hb⟩
    | true =>
      obtain ⟨t, hturn, ht, hlt, _, hless⟩ := coreTurn_progress hs hl hb
      have hstep : step s = .next t :=
        (step_of_err hs.errProduced).trans ((move_nil hev).trans hturn)
      obtain ⟨m, u, hm, hrun, hu⟩ :=
        ih _ (hleft ▸ hless) ht hlt ((coreTurn_events hturn).trans hev) rfl
      exact ⟨m + 1, u, by omega, (steps_succ_of_next hstep m).trans hrun, hu⟩

/-- WAIT is over after at most two steps for each Core step that remains, and one poll more
(30_encoding.md R64). -/
theorem exists_steps_to_wait_end {s : State} (hs : OwcInv s) (hl : NoResetOnBitStore s)
    (es : List Event) (rs : List (Nat × Byte)) :
    ∃ (m : Nat) (t : State) (rs' : List (Nat × Byte)), m ≤ 2 * coreStepsLeft s + 1 ∧
      steps m { s with events := .wait :: es, reads := rs } =
        .next { t with events := es, reads := rs' ++ [(2, t.statusByte)] } ∧
      t.seq = .idle ∧ t.cmd = s.cmd := by
  induction hleft : coreStepsLeft s using Nat.strong_induction_on generalizing s rs with
  | _ n ih =>
    cases hb : s.busy with
    | false =>
      have hidle := idle_of_not_busy hb
      have hpoll := step_of_wait_idle (s := { s with events := .wait :: es, reads := rs })
        hs.errProduced hidle rfl
      exact ⟨1, s, rs, by omega, steps_succ_of_next hpoll 0, hidle, rfl⟩
    | true =>
      obtain ⟨t, hturn, ht, hlt, hcmd, hless⟩ := coreTurn_progress hs hl hb
      obtain ⟨rs₁, htwo⟩ := steps_poll_busy hs.errProduced hb hturn es rs
      obtain ⟨m, u, rs₂, hm, hrun, hu, hcmd'⟩ := ih _ (hleft ▸ hless) ht hlt rs₁ rfl
      exact ⟨2 + m, u, rs₂, by omega, (steps_add htwo).trans hrun, hu, hcmd'.trans hcmd⟩

/-! ## What an abort leaves -/

/-- The registers that no command writes before its end, and no abort at all (60_exceptions.md
R101). -/
structure SameRegisters (s u : State) : Prop where
  cmd : u.cmd = s.cmd
  data : u.data = s.data
  crc : u.crc = s.crc
  initd : u.initd = s.initd
  hosterr : u.hosterr = s.hosterr

/-- The command byte `c` dispatched in `s` is in progress in `u`, and has written no register; or it
is over, and if it ended with TIMEOUT it has written PRESENT at most, which OWRESET clears
(60_exceptions.md R99, R101). -/
def SinceDispatch (c : Byte) (s u : State) : Prop :=
  (∃ k, u.seq = .run c k ∧ SameRegisters s u ∧ u.present = s.present) ∨
  (u.seq = .idle ∧ (u.err = 2#3 → u.baudSel = .data ∧ SameRegisters s u ∧
    u.present = if c = encodeByte .owreset then false else s.present))

/-- A command that ends with TIMEOUT was aborted (60_exceptions.md R101). -/
theorem CoreStep.eq_abort {i : Instr} {c : Byte} {k : Nat} {s t : State} (h : CoreStep i s t)
    (hseq : s.seq = .run c k) (hnone : s.err = ErrCode.none.code) (hidle : t.seq = .idle)
    (he : t.err = 2#3) : t = abort s := by
  cases h with
  | refused _ _ _ => cases he
  | aborted _ _ _ => rfl
  | configured | sent | received => simp [hseq] at hidle
  | completed _ =>
    rw [completion_err, hnone, presenceErr_code] at he
    split at he
    · split at he <;> cases he
    · cases he

/-- An abort keeps every register but PRESENT and ERR (60_exceptions.md R101). -/
theorem sameRegisters_abort (s : State) : SameRegisters s (abort s) := by
  obtain ⟨-, -, -, hdata, hcrc, hcmd, hinitd, hhost, -, -⟩ := abort_keeps s
  exact ⟨hcmd, hdata, hcrc, hinitd, hhost⟩

theorem SameRegisters.trans {s t u : State} (h₁ : SameRegisters s t) (h₂ : SameRegisters t u) :
    SameRegisters s u :=
  ⟨h₂.cmd.trans h₁.cmd, h₂.data.trans h₁.data, h₂.crc.trans h₁.crc, h₂.initd.trans h₁.initd,
    h₂.hosterr.trans h₁.hosterr⟩

/-- A turn of the Core keeps what has held since dispatch. -/
theorem coreTurn_keeps_sinceDispatch {c : Byte} {s u v : State} (hu : OwcInv u)
    (h : SinceDispatch c s u) (hturn : coreTurn u = .next v) : SinceDispatch c s v := by
  rcases h with ⟨k, hseq, hsame, hpresent⟩ | ⟨hidle, hend⟩
  · rcases coreTurn_next_cases hturn with ⟨hidle, rfl⟩ | ⟨_, _, _, _, rfl⟩ |
      ⟨c', k', i, hrun, hd, hexec⟩
    · exact .inl ⟨k, hseq, hsame, hpresent⟩
    · exact .inr ⟨rfl, nofun⟩
    · cases hseq.symm.trans hrun
      have hstep := exec_coreStep hexec
      rcases hstep.called_or_ended with ⟨_, _, hcall⟩ | ⟨hidle, _⟩
      · have hkept : SameRegisters u v :=
          ⟨hcall.cmd, hcall.data, hcall.crc, hcall.initd, (exec_frame hexec).hosterr⟩
        exact .inl ⟨k + 1, by rw [hcall.seq, hseq]; rfl, hsame.trans hkept,
          hcall.present.trans hpresent⟩
      · refine .inr ⟨hidle, fun he => ?_⟩
        obtain rfl := hstep.eq_abort hseq (hu.errTells.err_of_run hseq) hidle he
        exact ⟨abort_baudSel u, hsame.trans (sameRegisters_abort u), by
          rw [abort_present, hu.seqInRange.cmd_eq hseq, hpresent]⟩
  · rw [coreTurn_idle hidle] at hturn
    cases hturn
    exact .inr ⟨hidle, hend⟩

/-! ## The counts of calls -/

/-- The kinds of the command's first `m` calls, counted as the table counts them: configures,
transmits, receives (70_reset_and_hazards.md R120). -/
def callCounts (i : Instr) : Nat → Nat × Nat × Nat
  | 0 => (0, 0, 0)
  | m + 1 => callCounts i m +
      if i.configuresAfter m then (1, 0, 0) else if i.receivesAfter m then (0, 0, 1) else (0, 1, 0)

theorem callCounts_succ_of_configure {i : Instr} {m : Nat} (hk : i.configuresAfter m = true) :
    callCounts i (m + 1) = callCounts i m + (1, 0, 0) := by
  rw [callCounts, if_pos hk]

theorem callCounts_succ_of_transmit {i : Instr} {m : Nat}
    (hk : i.receivesAfter m = false ∧ i.configuresAfter m = false) :
    callCounts i (m + 1) = callCounts i m + (0, 1, 0) := by
  rw [callCounts, if_neg (by simp [hk.2]), if_neg (by simp [hk.1])]

theorem callCounts_succ_of_receive {i : Instr} {m : Nat} (hk : i.receivesAfter m = true) :
    callCounts i (m + 1) = callCounts i m + (0, 0, 1) := by
  rw [callCounts, if_neg (by simp [Instr.not_configures_of_receives hk]), if_pos hk]

/-- All calls of a command make up the table's row (70_reset_and_hazards.md R120). -/
theorem callCounts_serialCalls (i : Instr) : callCounts i i.serialCalls = countsOf i := by
  cases i <;> decide

/-- No command makes more than eight transmits or eight receives (70_reset_and_hazards.md R120). -/
theorem callCounts_le {i : Instr} {m : Nat} (hm : m ≤ i.serialCalls) :
    (callCounts i m).2.1 ≤ 8 ∧ (callCounts i m).2.2 ≤ 8 := by
  have h : ∀ m ≤ i.serialCalls, (callCounts i m).2.1 ≤ 8 ∧ (callCounts i m).2.2 ≤ 8 := by
    cases i <;> decide
  exact h m hm

theorem serialCounts_append (a b : List SerialOp) :
    serialCounts (a ++ b) = serialCounts a + serialCounts b := by
  simp [serialCounts, List.countP_append]

/-- The Line lists at least `a` answers `OK` and `b` readbacks. -/
def Lists (a b : Nat) (l : Line) : Prop :=
  ∃ (tx : List TxAnswer) (rs : List Byte) (rx : List RxAnswer), rs.length = b ∧
    l = .listed (List.replicate a .ok ++ tx) (rs.map .frame ++ rx)

theorem Lists.transmit {a b : Nat} {l l' : Line} {f : Byte} {n d : Nat} {ans : TxAnswer}
    (h : Lists (a + 1) b l) (htx : l.transmit f n = some (ans, l', d)) :
    ans = .ok ∧ Lists a b l' := by
  obtain ⟨tx, rs, rx, hrs, rfl⟩ := h
  rw [List.replicate_succ, List.cons_append, Line.transmit] at htx
  cases htx
  exact ⟨rfl, tx, rs, rx, hrs, rfl⟩

theorem Lists.receive {a b : Nat} {l : Line} (h : Lists a (b + 1) l) (n : Nat) :
    (∃ v, (l.receive n).1 = .frame v) ∧ Lists a b (l.receive n).2.1 := by
  obtain ⟨tx, rs, rx, hrs, rfl⟩ := h
  obtain ⟨v, rs, rfl⟩ := List.exists_cons_of_length_eq_add_one hrs
  exact ⟨⟨v, rfl⟩, tx, rs, rx, Nat.succ.inj hrs, rfl⟩

theorem Lists.configure {a b : Nat} {l : Line} (h : Lists a b l) : Lists a b l.configure := by
  obtain ⟨tx, rs, rx, hrs, rfl⟩ := h
  exact ⟨tx, rs, rx, hrs, rfl⟩

theorem Lists.not_bitStore {a b : Nat} {l : Line} (h : Lists a b l) (q : List Bool) (p : Bool) :
    l ≠ .bitStore q p := by
  obtain ⟨tx, rs, rx, -, rfl⟩ := h
  nofun

/-- The command `i` accepted before `s` has made `m` calls, all answered, and the Line lists answers
to all that may follow. -/
structure AllAnswered (i : Instr) (s : State) (m : Nat) (u : State) : Prop where
  err : u.err = ErrCode.none.code
  events : u.events = []
  seq : u.seq = .run (encodeByte i) m
  initd : i.isBus = true → u.initd = true
  timedOut : m ≠ 0 → u.timedOut = false
  line : ∃ a b, Lists a b u.line ∧ (callCounts i m).2.1 + a = 8 ∧ (callCounts i m).2.2 + b = 8
  trace : ∃ ops, u.trace = s.trace ++ ops ∧ serialCounts ops = callCounts i m

section Counts

variable {i : Instr} {s u : State} {m : Nat}

/-- The next Core step is one of the command's (60_exceptions.md R99). -/
theorem AllAnswered.exists_coreStep (h : AllAnswered i s m u) (hm : m ≤ i.serialCalls) :
    ∃ t, step u = .next t ∧ CoreStep i u t ∧ t.events = [] := by
  have hstep : step u = exec i u :=
    step_of_run (by rw [h.err]; rfl) h.events h.seq (decodeByte_encodeByte i)
  obtain ⟨a, b, hline, -, -⟩ := h.line
  rcases exec_answers h.seq hm with ⟨t, ht⟩ | ⟨-, -, q, p, hq⟩
  · exact ⟨t, hstep.trans ht, exec_coreStep ht, (exec_frame ht).events.trans h.events⟩
  · exact absurd hq (hline.not_bitStore q p)

/-- A call that is answered leads on. -/
theorem AllAnswered.called {t : State} {op : SerialOp} (h : AllAnswered i s m u)
    (hcall : Called u t)
    (hev : t.events = []) (hto : t.timedOut = false) (htrace : t.trace = u.trace ++ [op])
    (hop : callCounts i (m + 1) = callCounts i m + serialCounts [op])
    (hline : ∃ a b, Lists a b t.line ∧ (callCounts i (m + 1)).2.1 + a = 8 ∧
      (callCounts i (m + 1)).2.2 + b = 8) : AllAnswered i s (m + 1) t where
  err := hcall.err.trans h.err
  events := hev
  seq := by rw [hcall.seq, h.seq]; rfl
  initd := fun hbus => hcall.initd.trans (h.initd hbus)
  timedOut := fun _ => hto
  line := hline
  trace := by
    obtain ⟨ops, ht, hc⟩ := h.trace
    exact ⟨ops ++ [op], by rw [htrace, ht, List.append_assoc], by rw [serialCounts_append, hc, hop]⟩

/-- While calls remain, the next Core step is one of them and the Line answers it. -/
theorem AllAnswered.exists_next (h : AllAnswered i s m u) (hm : m < i.serialCalls) :
    ∃ t, step u = .next t ∧ AllAnswered i s (m + 1) t := by
  obtain ⟨t, hstep, hcore, hev⟩ := h.exists_coreStep hm.le
  obtain ⟨a, b, hline, ha, hb⟩ := h.line
  obtain ⟨hle₁, hle₂⟩ := callCounts_le hm
  refine ⟨t, hstep, ?_⟩
  cases hcore with
  | refused hbus _ hinitd => simp [h.initd hbus] at hinitd
  | aborted _ hseq ht =>
    cases h.seq.symm.trans hseq
    simp [h.timedOut (Nat.succ_ne_zero _)] at ht
  | configured hdue hk _ =>
    obtain rfl := hdue.count_eq h.seq
    have hcount := callCounts_succ_of_configure hk
    exact h.called (called_serialConfigure _ u) hev rfl rfl hcount
      ⟨a, b, hline.configure, by rw [hcount]; exact ha, by rw [hcount]; exact hb⟩
  | sent hdue hk htx _ =>
    obtain rfl := hdue.count_eq h.seq
    have hcount := callCounts_succ_of_transmit hk
    simp only [hcount, Prod.snd_add, Prod.fst_add] at hle₁
    obtain ⟨a, rfl⟩ : ∃ a', a = a' + 1 := ⟨a - 1, by omega⟩
    obtain ⟨rfl, hline'⟩ := hline.transmit htx
    exact h.called (called_afterTransmit _ _ _ _ _ _ u) hev rfl rfl hcount
      ⟨a, b, hline', by simp only [hcount, Prod.snd_add, Prod.fst_add]; omega,
        by rw [hcount]; exact hb⟩
  | received hdue hk =>
    obtain rfl := hdue.count_eq h.seq
    have hcount := callCounts_succ_of_receive hk
    simp only [hcount, Prod.snd_add] at hle₂
    obtain ⟨b, rfl⟩ : ∃ b', b = b' + 1 := ⟨b - 1, by omega⟩
    obtain ⟨⟨v, hv⟩, hline'⟩ := hline.receive u.draws
    exact h.called (called_serialReceive u) hev (by rw [serialReceive_eq, hv]; rfl) rfl hcount
      ⟨a, b, hline', by rw [hcount]; exact ha, by simp only [hcount, Prod.snd_add]; omega⟩
  | completed hseq =>
    cases h.seq.symm.trans hseq
    exact absurd hm (Nat.lt_irrefl _)

/-- When no call remains, the next Core step is the completion (60_exceptions.md R99). -/
theorem AllAnswered.exists_end (h : AllAnswered i s i.serialCalls u) :
    step u = .next (completion i u) := by
  obtain ⟨t, hstep, hcore, -⟩ := h.exists_coreStep le_rfl
  rw [hstep]
  cases hcore with
  | refused hbus _ hinitd => simp [h.initd hbus] at hinitd
  | aborted hbus hseq ht =>
    have hcalls : i.serialCalls ≠ 0 := by cases i <;> simp_all [Instr.serialCalls, Instr.isBus]
    simp [h.timedOut hcalls] at ht
  | configured hdue _ _ | sent hdue _ _ _ | received hdue _ =>
    exact absurd (hdue.count_eq h.seq ▸ hdue.lt) (Nat.lt_irrefl _)
  | completed _ => rfl

/-- The command makes its calls one by one (10_state.md R15). -/
theorem AllAnswered.steps (h : AllAnswered i s 0 s) (hm : m ≤ i.serialCalls) :
    ∃ u, steps m s = .next u ∧ AllAnswered i s m u := by
  induction m with
  | zero => exact ⟨s, rfl, h⟩
  | succ m ih =>
    obtain ⟨u, hrun, hu⟩ := ih (Nat.le_of_succ_le hm)
    obtain ⟨t, hstep, ht⟩ := hu.exists_next hm
    exact ⟨t, steps_snoc hrun hstep, ht⟩

end Counts

/-! ## The obligations -/

/-- Settles O49: a legal command of `n` calls has `n + 1 - k` Core steps left after `k` of them. -/
theorem everyCommandEnds : Obligations.EveryCommandEnds := by
  intro s c k i hs hev hseq hd hl
  rw [decode_singleton_iff] at hd
  rw [← coreStepsLeft_of_run hseq hd]
  refine exists_steps_to_idle hs (fun q p hq hcmd => hl q p hq ?_) hev
  have hbyte : encodeByte i = encodeByte .owreset :=
    ((decodeByte_eq_ok_iff c i).1 hd).symm.trans ((hs.seqInRange.cmd_eq hseq).trans hcmd)
  exact encodeByte_injective hbyte

/-- Settles O41: at most seventeen Core steps remain, each with a poll, and the last poll finds BUSY
0. -/
theorem waitEnds : Obligations.WaitEnds := by
  intro s es hs hev hl
  obtain ⟨m, t, rs, hm, hrun, hidle, hcmd⟩ := exists_steps_to_wait_end hs hl es s.reads
  have hleft := coreStepsLeft_le s
  have hstart : { s with events := .wait :: es, reads := s.reads } = s := by rw [← hev]
  rw [hstart] at hrun
  refine ⟨m, _, t.statusByte, by omega, hrun, hidle, rfl, hcmd, List.getLast?_concat, rfl, ?_⟩
  exact (statusByte_bits t).1.trans (not_busy_of_idle hidle)

/-- Settles O15: since its dispatch the command has written no register, and what ended it with
TIMEOUT was an abort. -/
theorem abortIsPrecise : Obligations.AbortIsPrecise := by
  intro s t c n hs hev hseq hrun he
  have hall : OwcInv t ∧ t.events = [] ∧ SinceDispatch c s t := by
    refine steps_keep (P := fun u => OwcInv u ∧ u.events = [] ∧ SinceDispatch c s u)
      (fun u v ⟨hu, hnil, hsince⟩ hstep => ?_)
      ⟨hs, hev, .inl ⟨0, hseq, ⟨rfl, rfl, rfl, rfl, rfl⟩, rfl⟩⟩ hrun
    have hturn : coreTurn u = .next v := move_nil hnil ▸ move_of_step hstep
    exact ⟨coreTurn_keeps_inv hu hturn, (coreTurn_events hturn).trans hnil,
      coreTurn_keeps_sinceDispatch hu hsince hturn⟩
  obtain ⟨ht, -, ⟨k, hbusy, -, -⟩ | ⟨hidle, hend⟩⟩ := hall
  · cases he.symm.trans (ht.errTells.err_of_run hbusy)
  · obtain ⟨hbaud, hsame, hpresent⟩ := hend he
    rw [encodeByte_owreset] at hpresent
    exact ⟨hidle, hbaud, hsame.cmd, hsame.data, hsame.crc, hsame.initd, hsame.hosterr,
      fun hc => by rw [hpresent, if_neg hc], fun hc => by rw [hpresent, if_pos hc]⟩

/-- Settles O50: from its dispatch each Core step is an answered call, until the table's calls are
made, and then the completion. -/
theorem coreStepCounts : Obligations.CoreStepCounts := by
  intro i s rs tx rx hs hev hseq hinitd hrs hline
  have h0 : AllAnswered i s 0 s :=
    { err := hs.errTells.err_of_run hseq
      events := hev
      seq := hseq
      initd := hinitd
      timedOut := fun h => absurd rfl h
      line := ⟨8, 8, ⟨tx, rs, rx, hrs, hline⟩, rfl, rfl⟩
      trace := ⟨[], (List.append_nil _).symm, rfl⟩ }
  refine ⟨fun m hm => ?_, ?_⟩
  · obtain ⟨u, hrun, hu⟩ := h0.steps hm
    exact ⟨u, hrun, hu.seq⟩
  · obtain ⟨u, hrun, hu⟩ := h0.steps le_rfl
    obtain ⟨ops, htrace, hcounts⟩ := hu.trace
    exact ⟨_, ops, steps_snoc hrun hu.exists_end, completion_seq i u,
      (completion_trace i u).trans htrace, hcounts.trans (callCounts_serialCalls i)⟩

end Sys2Proof.Machine
end

section
/-! PROOFS. The Core steps of each command, written out as the registers they set (40_init.md to
43_byte_io.md, 60_exceptions.md R101). -/

namespace Sys2Proof.Machine

/-! ## The updates written out -/

section Updates

variable {s : State} {c : Byte} {k : Nat}

/-- The abort is pending exactly when the answer is TIMEOUT (60_exceptions.md R101). -/
theorem txTimedOut_eq (a : TxAnswer) : txTimedOut a = (a == .timeout) := by
  cases a <;> rfl

theorem serialConfigure_of_run (hseq : s.seq = .run c k) (r : Rate) :
    serialConfigure r s = { s with
      baudSel := r, periph := some r, line := s.line.configure, timedOut := false
      trace := s.trace ++ [.configure r], seq := .run c (k + 1) } := by
  rw [serialConfigure, hseq]
  rfl

theorem serialTransmit_of_run {f : Byte} {a : TxAnswer} {l : Line} {d : Nat}
    (hseq : s.seq = .run c k)
    (htx : s.line.transmit f s.draws = some (a, l, d)) :
    serialTransmit f s = .next { s with
      line := l, draws := d, timedOut := a == .timeout
      trace := s.trace ++ [.transmit s.baudSel f a], seq := .run c (k + 1) } := by
  rw [serialTransmit_of_some htx, afterTransmit, hseq, txTimedOut_eq]
  rfl

/-- A readback: the field `rx` takes it, and no abort is pending (20_memory.md R42). -/
theorem serialReceive_of_frame {f : Byte} {l : Line} {d : Nat} (hseq : s.seq = .run c k)
    (ht : s.timedOut = false) (hrx : s.line.receive s.draws = (.frame f, l, d)) :
    serialReceive s = { s with
      line := l, draws := d, rx := f, trace := s.trace ++ [.receive (.frame f)]
      seq := .run c (k + 1) } := by
  rw [serialReceive_eq, hrx, afterReceive, hseq]
  simp [rxTimedOut, rxFrameOr, ht]

/-- A receive that times out: the abort is pending, and the field `rx` stays (60_exceptions.md
R101). -/
theorem serialReceive_of_timeout {l : Line} {d : Nat} (hseq : s.seq = .run c k)
    (hrx : s.line.receive s.draws = (.timeout, l, d)) :
    serialReceive s = { s with
      line := l, draws := d, timedOut := true, trace := s.trace ++ [.receive .timeout]
      seq := .run c (k + 1) } := by
  rw [serialReceive_eq, hrx, afterReceive, hseq]
  rfl

/-- With no abort pending the end of a command writes SEQ alone (60_exceptions.md R99). -/
theorem finish_of_not_timedOut (ht : s.timedOut = false) : finish s = { s with seq := .idle } := by
  simp [finish, ← ht]

end Updates

/-! ## A bus command past dispatch -/

section Bus

variable {i : Instr} {s : State} {c : Byte} {k : Nat} {body : Nat → Result}

/-- Dispatch lets a bus command pass when INITD is set (60_exceptions.md R94). -/
theorem busStep_dispatched (hseq : s.seq = .run c 0) (hinitd : s.initd = true) :
    busStep s body = body 0 := by
  rw [busStep_first hseq, if_pos hinitd]

/-- With no abort pending a later Core step is the body's (60_exceptions.md R101). -/
theorem busStep_unaborted (hseq : s.seq = .run c (k + 1)) (ht : s.timedOut = false) :
    busStep s body = body (k + 1) := by
  rw [busStep_later hseq, ht, if_neg Bool.false_ne_true]

/-- After a timeout the next Core step of every bus command is the abort (60_exceptions.md R101). -/
theorem exec_of_timedOut (hi : i.isBus = true) (hseq : s.seq = .run c (k + 1))
    (ht : s.timedOut = true) : exec i s = .next (abort s) := by
  have habort (body : Nat → Result) : busStep s body = .next (abort s) := by
    rw [busStep_later hseq, if_pos ht]
  cases i with
  | owreset | wbit | rbit | wbyte | rbyte =>
    unfold exec
    exact habort _
  | init | crcclr | crcupd => cases hi

end Bus

/-! ## The obligations -/

/-- Settles O14: the abort at either rate. -/
theorem timeoutAbortsTheCommand : Obligations.TimeoutAbortsTheCommand := by
  intro i s c k hi hseq ht
  have hbus : i.isBus = true := by rcases hi with rfl | rfl | rfl | rfl | rfl <;> rfl
  rw [exec_of_timedOut hbus hseq ht, ← encodeByte_owreset]
  exact ⟨fun hb => by rw [abort_of_data hb]; rfl, fun hb => by rw [abort_of_reset hb]; rfl⟩

/-- Settles O16: the step with nothing listed and that of a listed Core turn are both the Core's
turn, which is the command's meaning. -/
theorem stepRunsTheDecodedCommand : Obligations.StepRunsTheDecodedCommand := by
  intro s c k i herr hseq hd
  rw [decode_singleton_iff] at hd
  exact ⟨fun hev => step_of_run herr hev hseq hd, fun es hev =>
    (step_of_core herr hev).trans (coreTurn_run (s := { s with events := es }) hseq hd)⟩

/-- Settles O17: the configure, and the completion. -/
theorem initCoreSteps : Obligations.InitCoreSteps := by
  intro s c
  exact ⟨fun hseq => by rw [exec_init_first hseq, serialConfigure_of_run hseq], exec_init_second⟩

/-- Settles O18: OWRESET's calls in their order, and the two reports. -/
theorem owresetCoreSteps : Obligations.OwresetCoreSteps := by
  intro s c
  refine ⟨fun hseq hinitd => ?_, fun ht => ⟨fun a l d hseq htx => ?_, fun f l d hseq hrx => ?_,
    fun l d hseq hrx => ?_, fun hseq => ?_, fun hseq hrx => ?_, fun hseq hrx => ?_⟩⟩
  all_goals rw [exec, execOwreset]
  · rw [busStep_dispatched hseq hinitd, serialConfigure_of_run hseq]
  · rw [busStep_unaborted hseq ht]
    exact serialTransmit_of_run hseq htx
  · rw [busStep_unaborted hseq ht, serialReceive_of_frame hseq ht hrx]
  · rw [busStep_unaborted hseq ht, serialReceive_of_timeout hseq hrx]
  · rw [busStep_unaborted hseq ht, serialConfigure_of_run hseq .data, ← ht]
  · rw [busStep_unaborted hseq ht]
    simp [reportPresence, finish, hrx, ← ht]
  · rw [busStep_unaborted hseq ht]
    simp [reportPresence, finish, hrx, ← ht]

/-- Settles O19: the second Core step of OWRESET transmits `0xF0`, to which `BITSTORE` has no
answer. -/
theorem resetFrameOnBitStoreIsRefused : Obligations.ResetFrameOnBitStoreIsRefused := by
  intro s c q p hseq ht hline
  rw [exec, execOwreset, busStep_unaborted hseq ht]
  simp [serialTransmit, Line.transmit, hline]

/-- Settles O20: the frame, which every Line answers, and the end. -/
theorem wbitCoreSteps : Obligations.WbitCoreSteps := by
  intro s c
  refine ⟨fun hseq hinitd => ?_, fun hseq ht => ?_⟩
  · obtain ⟨a, l, d, htx⟩ := transmit_some_of_ne (bitFrame_ne_resetFrame s.bitOperand)
      s.draws s.line
    refine ⟨a, l, d, htx, ?_⟩
    rw [exec, execWbit, busStep_dispatched hseq hinitd]
    exact serialTransmit_of_run hseq htx
  · rw [exec, execWbit, busStep_unaborted hseq ht, finish_of_not_timedOut ht]

/-- The result bit as a byte (42_bit_io.md R75). -/
theorem zext8_eq (b : Bool) : zext8 b = if b then 0x01#8 else 0x00#8 := by
  cases b <;> rfl

/-- Settles O21: the probe, the readback or its timeout, and the end. -/
theorem rbitCoreSteps : Obligations.RbitCoreSteps := by
  intro s c
  refine ⟨fun hseq hinitd => ?_, fun ht => ⟨fun f l d hseq hrx => ?_, fun l d hseq hrx => ?_,
    fun hseq => ?_⟩⟩
  · obtain ⟨a, l, d, htx⟩ := transmit_some_of_ne probeFrame_ne_resetFrame s.draws s.line
    refine ⟨a, l, d, htx, ?_⟩
    rw [exec, execRbit, busStep_dispatched hseq hinitd]
    exact serialTransmit_of_run hseq htx
  · rw [exec, execRbit, busStep_unaborted hseq ht, serialReceive_of_frame hseq ht hrx]
  · rw [exec, execRbit, busStep_unaborted hseq ht, serialReceive_of_timeout hseq hrx]
  · rw [exec, execRbit, busStep_unaborted hseq ht, finish_of_not_timedOut (by exact ht), zext8_eq]
    rfl

/-- The state after the data path of WBYTE has moved SHIFT to `v` (43_byte_io.md R77). -/
theorem writeSlot_eq {s : State} {k : Nat} {v : Byte} (h0 : k = 0 → v = s.data)
    (h1 : k ≠ 0 → v = s.shift >>> 1) :
    writeSlot k s = { s with shift := v, bitcnt := Fin.ofNat 9 k } := by
  by_cases hk : k = 0
  · simp [writeSlot, hk, h0, State.byteOperand]
  · simp [writeSlot, hk, h1, shiftOut]

/-- The state after the data path of RBYTE has moved SHIFT to `v` (43_byte_io.md R78). -/
theorem readSlot_eq {s : State} {i : Nat} {v : Byte} (h0 : i = 0 → v = 0x00#8)
    (h1 : i ≠ 0 → v = (s.shift >>> 1) ||| (if s.rx.getLsbD 0 then 0x80#8 else 0x00#8)) :
    readSlot i s = { s with shift := v, bitcnt := Fin.ofNat 9 i } := by
  by_cases hi : i = 0
  · simp [readSlot, hi, h0]
  · have htop : ∀ b : Bool, zext8 b <<< 7 = if b then 0x80#8 else 0x00#8 := by decide
    simp only [readSlot, if_neg hi, shiftIn, readBit, htop, h1 hi]

/-- A Core step of a bus command that no refusal and no abort stops is its body's
(60_exceptions.md R98, R101). -/
theorem busStep_body {s : State} {c : Byte} {k : Nat} {body : Nat → Result}
    (hseq : s.seq = .run c k)
    (h0 : k = 0 → s.initd = true) (h1 : k ≠ 0 → s.timedOut = false) : busStep s body = body k := by
  cases k with
  | zero => exact busStep_dispatched hseq (h0 rfl)
  | succ k => exact busStep_unaborted hseq (h1 (Nat.succ_ne_zero k))

/-- Settles O22: each slot moves SHIFT and sends its bit, which every Line answers; the ninth step
moves it once more and ends. -/
theorem wbyteCoreSteps : Obligations.WbyteCoreSteps := by
  intro s c k v hseq h0 h1
  have hslot : writeSlot k s = { s with shift := v, bitcnt := Fin.ofNat 9 k } :=
    writeSlot_eq (fun hk => (h0 hk).2) (fun hk => (h1 hk).2)
  rw [exec, execWbyte, busStep_body hseq (fun hk => (h0 hk).1) (fun hk => (h1 hk).1), hslot]
  refine ⟨fun hk => ?_, fun hk => ?_⟩
  · obtain ⟨a, l, d, htx⟩ := transmit_some_of_ne (bitFrame_ne_resetFrame (v.getLsbD 0))
      s.draws s.line
    refine ⟨a, l, d, htx, ?_⟩
    rw [if_pos hk]
    exact serialTransmit_of_run (s := { s with shift := v, bitcnt := Fin.ofNat 9 k }) hseq htx
  · subst hk
    rw [if_neg (by decide), if_pos rfl, finish_of_not_timedOut (by exact (h1 (by decide)).1)]
    rfl

/-- Settles O23: each probe moves SHIFT before its frame, each readback is taken or times out, and
the last step moves SHIFT into DATA. -/
theorem rbyteCoreSteps : Obligations.RbyteCoreSteps := by
  intro s c i v h0 h1
  have hslot : readSlot i s = { s with shift := v, bitcnt := Fin.ofNat 9 i } := readSlot_eq h0 h1
  refine ⟨fun hseq hi hinitd ht => ?_, fun ht => ⟨fun f l d hseq hi hrx => ?_,
    fun l d hseq hi hrx => ?_, fun hseq hi => ?_⟩⟩
  · obtain ⟨a, l, d, htx⟩ := transmit_some_of_ne probeFrame_ne_resetFrame s.draws s.line
    refine ⟨a, l, d, htx, ?_⟩
    rw [exec, execRbyte, busStep_body hseq (fun hk => hinitd (by omega)) (fun hk => ht (by omega)),
      if_neg (by omega), if_pos (by omega), Nat.mul_div_cancel_left i (by decide), hslot]
    exact serialTransmit_of_run (s := { s with shift := v, bitcnt := Fin.ofNat 9 i }) hseq htx
  · rw [exec, execRbyte, busStep_unaborted hseq ht, if_pos (by omega), if_pos (by omega),
      serialReceive_of_frame hseq ht hrx]
  · rw [exec, execRbyte, busStep_unaborted hseq ht, if_pos (by omega), if_pos (by omega),
      serialReceive_of_timeout hseq hrx]
  · subst hi
    rw [exec, execRbyte, busStep_unaborted hseq ht, if_neg (by decide), if_neg (by decide),
      if_pos (by decide), hslot, finish_of_not_timedOut (by exact ht)]
    rfl

end Sys2Proof.Machine
end

section
/-! PROOFS. Whole commands (41_reset_presence.md, 43_byte_io.md, 44_checksum.md) and the assembler's
lines (30_encoding.md R62 to R64). -/

namespace Sys2Proof.Machine

/-- An idle OWC has no abort pending and is at the data rate (10_state.md R27, 60_exceptions.md
R101). -/
theorem OwcInv.idle {s : State} (hs : OwcInv s) (hseq : s.seq = .idle) :
    s.timedOut = false ∧ s.baudSel = .data :=
  ⟨hs.timeoutPending.not_timedOut_of_idle hseq, hs.baudFollowsSeq.data (by simp [hseq])⟩

/-! ## OWRESET that times out -/

/-- Of an idle, initialized OWC, an OWRESET whose transmit times out writes CMD, PRESENT and ERR
(60_exceptions.md R101). -/
theorem abort_owresetSent_of_idle {s : State} (hs : OwcInv s) (hseq : s.seq = .idle)
    (hinitd : s.initd = true) (tx : List TxAnswer) (rx : List RxAnswer) :
    abort (owresetSent .timeout (.listed tx rx) s.draws (accept 0x02#8 { s with events := [] })) =
      { s with
        events := [], cmd := 0x02#8, line := .listed tx rx, present := false, err := 2#3
        trace := s.trace ++
          [.configure .reset, .transmit .reset 0xF0#8 .timeout, .configure .data] } := by
  obtain ⟨hidle, hdata⟩ := hs.idle hseq
  have hperiph : s.periph = some .data := hdata ▸ hs.periphAgrees (.inl hinitd)
  rw [abort_of_reset rfl]
  simp [owresetSent, endWithError, finish, serialConfigure, afterTransmit, accept, encodeByte_init,
    encodeByte_owreset, Line.configure, resetFrame, ErrCode.code, hseq, hidle, hdata, hperiph]

/-- One whose receive times out writes the same (60_exceptions.md R101). -/
theorem abort_owresetRead_of_idle {s : State} (hs : OwcInv s) (hseq : s.seq = .idle)
    (hinitd : s.initd = true) (l : Line) (tx : List TxAnswer) (rx : List RxAnswer) :
    abort (owresetRead .timeout l (.listed tx rx) s.draws s.draws
        (accept 0x02#8 { s with events := [] })) =
      { s with
        events := [], cmd := 0x02#8, line := .listed tx rx, present := false, err := 2#3
        trace := s.trace ++
          [.configure .reset, .transmit .reset 0xF0#8 .ok, .receive .timeout,
            .configure .data] } := by
  obtain ⟨hidle, hdata⟩ := hs.idle hseq
  have hperiph : s.periph = some .data := hdata ▸ hs.periphAgrees (.inl hinitd)
  rw [abort_of_reset rfl]
  simp [owresetRead, owresetSent, endWithError, finish, serialConfigure, afterTransmit,
    afterReceive, accept, encodeByte_init, encodeByte_owreset, Line.configure, resetFrame,
    ErrCode.code, rxFrameOr, hseq, hidle, hdata, hperiph]

/-! ## WBYTE on a Line that lists its answers -/

section Wbyte

variable {s t : State} {i : Nat} {l l' : Line} {d : Nat}

/-- The Core turn that sends the bit of slot `i` (43_byte_io.md R77). -/
theorem coreTurn_wbyteAt {a : TxAnswer} (hinitd : s.initd = true) (hi : i < 8)
    (ht : writeSlot i t = wbyteAt i l s)
    (htx : l.transmit (bitFrame (s.data.getLsbD i)) s.draws = some (a, l', d)) :
    coreTurn t = .next (afterTransmit (bitFrame (s.data.getLsbD i)) a l' d (wbyteAt i l s)) := by
  have hbit : (wbyteAt i l s).shift.getLsbD 0 = s.data.getLsbD i := by simp [wbyteAt]
  rw [coreTurn_wbyte_slot (running_of_writeSlot hinitd ht) hi, ht, hbit]
  exact serialTransmit_of_some htx

/-- While the Line lists `OK`, WBYTE sends bit after bit, and the rest of the list is left
(43_byte_io.md R77). -/
theorem coreRun_wbyte_listed (hinitd : s.initd = true) (hi : i ≤ 8) {tx : List TxAnswer}
    {rx : List RxAnswer} (hline : s.line = .listed (List.replicate i .ok ++ tx) rx) :
    ∃ t, CoreRun (accept 0x05#8 s) i t ∧ writeSlot i t = wbyteAt i (.listed tx rx) s := by
  induction i generalizing tx with
  | zero =>
    refine ⟨_, .refl, ?_⟩
    rw [List.replicate_zero, List.nil_append] at hline
    simp [writeSlot, wbyteAt, State.byteOperand, accept, ← hline]
  | succ i ih =>
    rw [List.replicate_succ', List.append_assoc, List.singleton_append] at hline
    obtain ⟨t, hrun, ht⟩ := ih (by omega) hline
    have hat := running_of_writeSlot hinitd ht
    have hsent := coreTurn_wbyteAt (a := .ok) (l' := .listed tx rx) (d := s.draws) hinitd
      (by omega) ht rfl
    exact ⟨_, hrun.turn hat hsent, writeSlot_afterTransmit_wbyteAt i _ _ s⟩

end Wbyte

/-- Of an idle OWC, a completed WBYTE writes CMD, ERR and the hidden registers, and its eight frames
go out at the data rate (43_byte_io.md R77). -/
theorem wbyteDone_of_idle {s : State} (hs : OwcInv s) (hseq : s.seq = .idle) (l : Line) :
    wbyteDone l { s with events := [] } = { s with
      events := [], cmd := 0x05#8, err := 0#3, shift := 0x00#8, bitcnt := 8, line := l
      trace := s.trace ++ (List.range 8).map fun i =>
        .transmit .data (if s.data.getLsbD i then 0xFF#8 else 0x00#8) .ok } := by
  obtain ⟨hidle, hdata⟩ := hs.idle hseq
  have hshift : s.data >>> 8 = 0x00#8 := BitVec.ushiftRight_eq_zero (Nat.le_refl 8)
  simp only [wbyteDone, wbyteAt, hshift, hdata]
  simp [finish, accept, encodeByte_init, ErrCode.code, bitFrame, hseq, hidle]

/-- A transmit of WBYTE that times out, and the abort (43_byte_io.md R77, 60_exceptions.md R101). -/
theorem abort_wbyteAt_of_idle {s : State} (hs : OwcInv s) (hseq : s.seq = .idle) (j : Nat)
    (l l' : Line) :
    abort (afterTransmit (bitFrame (s.data.getLsbD j)) .timeout l' s.draws
        (wbyteAt j l { s with events := [] })) = { s with
      events := [], cmd := 0x05#8, err := 2#3, shift := s.data >>> j, bitcnt := Fin.ofNat 9 j
      line := l'
      trace := s.trace ++ (List.range (j + 1)).map fun i =>
        .transmit .data (if s.data.getLsbD i then 0xFF#8 else 0x00#8)
          (if i = j then .timeout else .ok) } := by
  obtain ⟨hidle, hdata⟩ := hs.idle hseq
  have hsent : ∀ i ∈ List.range j,
      SerialOp.transmit .data (bitFrame (s.data.getLsbD i)) (if i = j then .timeout else .ok) =
        .transmit .data (bitFrame (s.data.getLsbD i)) .ok := fun i hi => by
    rw [if_neg (List.mem_range.1 hi).ne]
  have hops : ((List.range (j + 1)).map fun i =>
        SerialOp.transmit .data (bitFrame (s.data.getLsbD i)) (if i = j then .timeout else .ok)) =
      ((List.range j).map fun i => .transmit .data (bitFrame (s.data.getLsbD i)) .ok) ++
        [.transmit .data (bitFrame (s.data.getLsbD j)) .timeout] := by
    rw [List.range_succ, List.map_append, List.map_congr_left hsent, List.map_singleton, if_pos rfl]
  have hcmd : (0x05#8 : Byte) ≠ encodeByte .owreset := by decide
  rw [abort_of_data (by exact hdata), if_neg (by exact hcmd)]
  simp only [bitFrame] at hops
  simp [endWithError, finish, afterTransmit, wbyteAt, accept, encodeByte_init, ErrCode.code,
    bitFrame, hseq, hidle, hdata, hops]

/-! ## The obligations -/

/-- Settles O28: the accept and the three or four Core steps to the abort. -/
theorem owresetTimeouts : Obligations.OwresetTimeouts := by
  intro s tx rx hs hseq hinitd hev
  have haccept := step_of_cmd_write_idle hs.errProduced hseq hev
  have hat : OwresetAt 0 (accept 0x02#8 { s with events := [] }) := .of_accept hinitd rfl
  refine ⟨fun hline => ?_, fun hline => ?_⟩
  · have htx : s.line.configure.transmit resetFrame s.draws =
        some (.timeout, .listed tx rx, s.draws) := by rw [hline]; rfl
    rw [steps_succ_of_next haccept, steps_owreset_transmit_timeout hat htx,
      abort_owresetSent_of_idle hs hseq hinitd]
  · have htx : s.line.configure.transmit resetFrame s.draws =
        some (.ok, .listed tx (.timeout :: rx), s.draws) := by rw [hline]; rfl
    rw [steps_succ_of_next haccept, steps_owreset_receive_timeout hat htx rfl,
      abort_owresetRead_of_idle hs hseq hinitd]

/-- Settles O30: the accept, eight slots on a Line that lists `OK`, and the completion. -/
theorem wbyteSendsBitsLsbFirst : Obligations.WbyteSendsBitsLsbFirst := by
  intro s tx rx hs hseq hinitd hev hline
  have haccept := step_of_cmd_write_idle hs.errProduced hseq hev
  obtain ⟨t, hrun, ht⟩ := coreRun_wbyte_listed (s := { s with events := [] }) hinitd le_rfl hline
  have hat := running_of_writeSlot (s := { s with events := [] }) hinitd ht
  have hend : coreTurn t = .next (wbyteDone (.listed tx rx) { s with events := [] }) := by
    rw [coreTurn_wbyte_end hat, ht, wbyteDone]
  rw [steps_succ_of_next haccept, (hrun.turn hat hend).steps_eq rfl, wbyteDone_of_idle hs hseq]

/-- Settles O31: the accept, the slots before bit `j`, the transmit of bit `j`, and the abort. -/
theorem wbyteStopsAtTheTimeout : Obligations.WbyteStopsAtTheTimeout := by
  intro s j tx rx hs hseq hinitd hev hj hline
  have haccept := step_of_cmd_write_idle hs.errProduced hseq hev
  obtain ⟨t, hrun, ht⟩ := coreRun_wbyte_listed (s := { s with events := [] }) hinitd hj.le hline
  have hat := running_of_writeSlot (s := { s with events := [] }) hinitd ht
  have hsent := coreTurn_wbyteAt (s := { s with events := [] }) (a := .timeout)
    (l' := .listed tx rx) (d := s.draws) hinitd hj ht rfl
  have hstop : coreTurn (afterTransmit (bitFrame (s.data.getLsbD j)) .timeout (.listed tx rx)
      s.draws (wbyteAt j (.listed (.timeout :: tx) rx) { s with events := [] })) =
        .next (abort _) :=
    (coreTurn_run (i := .wbyte) (c := 0x05#8) (k := j + 1) rfl rfl).trans
      (exec_of_timedOut (c := 0x05#8) (k := j) rfl rfl rfl)
  rw [steps_succ_of_next haccept, ((hrun.turn hat hsent).snoc rfl hstop).steps_eq rfl,
    abort_wbyteAt_of_idle hs hseq]

/-- Settles O33: `ECHO` gives the reset frame back, which is no presence, and each probe, whose bits
are all 1. -/
theorem echoLineIsNoDevice : Obligations.EchoLineIsNoDevice := by
  intro s x hs hseq hinitd hline
  refine ⟨fun hev => ?_, fun hev => ?_⟩
  · have haccept := step_of_cmd_write_idle hs.errProduced hseq hev
    have hat : OwresetAt 0 (accept 0x02#8 { s with events := [] }) := .of_accept hinitd rfl
    have htx : s.line.configure.transmit resetFrame s.draws =
        some (.ok, .echo resetFrame, s.draws) := by rw [hline]; rfl
    exact ⟨_, (steps_succ_of_next haccept 5).trans (steps_owreset_readback hat htx rfl), rfl, rfl,
      rfl, rfl, rfl, rfl⟩
  · have haccept := step_of_cmd_write_idle hs.errProduced hseq hev
    obtain ⟨l, -, hrun⟩ := coreRun_rbyteDone (s := { s with events := [] }) hinitd
      (answersProbes_echo s.draws) ⟨x, hline⟩
    have hones : assembled (fun _ => 0xFF#8) 8 = 0xFF#8 := by decide
    exact ⟨_, (steps_succ_of_next haccept 17).trans (hrun.steps_eq rfl), rfl, hones, rfl, rfl, rfl⟩

end Sys2Proof.Machine
end

section
/-! PROOFS. The assembler (30_encoding.md R62 to R64), and the program of the pseudo-instruction CRC
(44_checksum.md R85). -/

namespace Sys2Proof.Machine

/-! ## What a line stands for -/

/-- A line in range stands for its accesses, and one out of range is refused (30_encoding.md
R62). -/
theorem assembleLine_eq {l : SourceLine} {p : Prop} [Decidable p] (h : l.wellFormed = true ↔ p) :
    assembleLine l = if p then some (expandLine l) else none := by
  by_cases hp : p
  · rw [assembleLine, if_pos (h.2 hp), if_pos hp]
  · rw [assembleLine, if_neg (mt h.1 hp), if_neg hp]

/-- The host accesses of a CRC line (30_encoding.md R64). -/
def crcProgram (bs : List Nat) : List Event :=
  hw 0 0x07#8 :: .wait ::
    bs.flatMap (fun b => [hw 1 (BitVec.ofNat 8 b), hw 0 0x08#8, .wait]) ++ [hr 3]

theorem assembleLine_crc (bs : List Nat) :
    assembleLine (.crc bs) = if ∀ b ∈ bs, b ≤ 255 then some (crcProgram bs) else none :=
  assembleLine_eq (by simp [SourceLine.wellFormed])

/-- A line of bytes begins with the accesses of its first byte (30_encoding.md R64). -/
theorem assembleLine_wbytes_cons (b : Nat) (bs : List Nat) :
    assembleLine (.wbytes (b :: bs)) =
      if b ≤ 255 then
        (assembleLine (.wbytes bs)).map fun es =>
          hw 1 (BitVec.ofNat 8 b) :: hw 0 0x05#8 :: .wait :: es
      else none := by
  have hcons : (SourceLine.wbytes (b :: bs)).wellFormed = true ↔
      b ≤ 255 ∧ (SourceLine.wbytes bs).wellFormed = true := by simp [SourceLine.wellFormed]
  rw [assembleLine_eq hcons, ite_and, assembleLine, apply_ite (Option.map _)]
  rfl

theorem assembleLine_rbytes_succ (n : Nat) :
    assembleLine (.rbytes (n + 1)) =
      (assembleLine (.rbytes n)).map fun es => hw 0 0x06#8 :: .wait :: hr 1 :: es := by
  rfl

/-! ## The obligation about lines -/

/-- Settles O40: each form of line, and the ranges of its numbers. -/
theorem assemblerExpandsLines : Obligations.AssemblerExpandsLines := by
  refine ⟨fun n => ?_, fun n => ?_, fun n => ?_, ?_, ?_, fun a v => ?_, fun a => ?_, rfl, rfl, rfl,
    rfl, rfl, rfl, rfl, assembleLine_wbytes_cons, rfl, assembleLine_rbytes_succ, assembleLine_crc⟩
  · exact assembleLine_eq (by simp [SourceLine.wellFormed, Instr.operandOk])
  · exact assembleLine_eq (by simp [SourceLine.wellFormed, Instr.operandOk])
  · exact assembleLine_eq (by simp [SourceLine.wellFormed, Instr.operandOk])
  · rintro i (rfl | rfl | rfl) <;> rfl
  · rintro i (rfl | rfl | rfl | rfl | rfl) <;> exact ⟨rfl, fun _ => rfl⟩
  · exact assembleLine_eq (by simp [SourceLine.wellFormed])
  · exact assembleLine_eq (by simp [SourceLine.wellFormed])

/-! ## The program of a CRC line -/

/-- What no checksum command and no wait for one touches: from `s` to `t` OWC is idle again with a
produced ERR code, and the trace, INITD, PRESENT and HOSTERR are as they were (44_checksum.md
R85). -/
structure OnlyChecksum (s t : State) : Prop where
  seq : t.seq = .idle
  err : reservedErr t.err = false
  trace : t.trace = s.trace
  initd : t.initd = s.initd
  present : t.present = s.present
  hosterr : t.hosterr = s.hosterr

theorem OnlyChecksum.trans {s t u : State} (h₁ : OnlyChecksum s t) (h₂ : OnlyChecksum t u) :
    OnlyChecksum s u :=
  ⟨h₂.seq, h₂.err, h₂.trace.trans h₁.trace, h₂.initd.trans h₁.initd, h₂.present.trans h₁.present,
    h₂.hosterr.trans h₁.hosterr⟩

section Program

variable {s : State} {es : List Event}

/-- A checksum command that sets CRC to `v`, and WAIT (30_encoding.md R64, 44_checksum.md R83,
R84). -/
theorem steps_checksum_wait {c v : Byte} {i : Instr} (herr : reservedErr s.err = false)
    (hseq : s.seq = .idle) (hev : s.events = hw 0 c :: .wait :: es) (hd : decodeByte c = .ok i)
    (hc : c ≠ encodeByte .init)
    (hexec : exec i (accept c s) = .next (finish { accept c s with crc := v })) :
    ∃ n t, steps n s = .next t ∧ t.events = es ∧ t.crc = v ∧ OnlyChecksum s t := by
  have hrun : CoreRun (accept c s) 1 (finish { accept c s with crc := v }) :=
    CoreRun.refl.snoc (reservedErr_accept c s) ((coreTurn_run (accept_seq c s) hd).trans hexec)
  obtain ⟨n, rs, hn⟩ := steps_command_wait herr hseq hev hrun (reservedErr_accept c s) rfl
  exact ⟨n, _, hn, rfl, rfl, rfl, reservedErr_accept c s, rfl, rfl, if_neg hc, if_neg hc⟩

/-- One byte of the line: DATA, CRCUPD and WAIT (44_checksum.md R84). -/
theorem steps_crcupd_wait {b : Byte} (herr : reservedErr s.err = false) (hseq : s.seq = .idle)
    (hev : s.events = hw 1 b :: hw 0 0x08#8 :: .wait :: es) :
    ∃ n t, steps n s = .next t ∧ t.events = es ∧ t.crc = crcFold s.crc b ∧ OnlyChecksum s t := by
  have hdata := (step_of_hw herr hev).trans (hostWrite_data_idle
    (s := { s with events := hw 0 0x08#8 :: .wait :: es }) (not_busy_of_idle hseq) b)
  have hsame : OnlyChecksum s { s with events := hw 0 0x08#8 :: .wait :: es, data := b } :=
    ⟨hseq, herr, rfl, rfl, rfl, rfl⟩
  obtain ⟨n, t, hn, hevt, hcrc, hsame'⟩ := steps_checksum_wait hsame.err hsame.seq rfl
    (i := .crcupd) rfl (by decide) (exec_crcupd (accept_seq _ _))
  exact ⟨n + 1, t, (steps_succ_of_next hdata n).trans hn, hevt, hcrc, hsame.trans hsame'⟩

/-- The bytes of the line are folded in their order (44_checksum.md R82). -/
theorem steps_crcupds (bs : List Nat) (herr : reservedErr s.err = false) (hseq : s.seq = .idle)
    (hev : s.events =
      bs.flatMap (fun b => [hw 1 (BitVec.ofNat 8 b), hw 0 0x08#8, .wait]) ++ es) :
    ∃ n t, steps n s = .next t ∧ t.events = es ∧
      t.crc = (bs.map (BitVec.ofNat 8)).foldl crcFold s.crc ∧ OnlyChecksum s t := by
  induction bs generalizing s with
  | nil => exact ⟨0, s, rfl, hev, rfl, hseq, herr, rfl, rfl, rfl, rfl⟩
  | cons b bs ih =>
    obtain ⟨m, t, hm, hevt, hcrc, hsame⟩ := steps_crcupd_wait herr hseq hev
    obtain ⟨n, u, hn, hevu, hcrc', hsame'⟩ := ih hsame.err hsame.seq hevt
    exact ⟨m + n, u, (steps_add hm).trans hn, hevu, by rw [hcrc', hcrc]; rfl, hsame.trans hsame'⟩

end Program

/-- Settles O38: CRCCLR, the fold of each byte, and the read of CRC. -/
theorem crcProgramComputesChecksum : Obligations.CrcProgramComputesChecksum := by
  intro s bs es hs hseq hbs hes hev
  rw [assembleLine_crc, if_pos hbs] at hes
  cases hes
  obtain ⟨m, t, hm, hevt, hcrct, hsamet⟩ := steps_checksum_wait hs.errProduced hseq hev
    (i := .crcclr) rfl (by decide) (exec_crcclr (accept_seq _ _))
  obtain ⟨n, u, hn, hevu, hcrcu, hsameu⟩ := steps_crcupds bs hsamet.err hsamet.seq hevt
  have hread := step_of_hr hsameu.err hevu rfl
  have hall := hsamet.trans hsameu
  refine ⟨m + n + 1, _, steps_snoc ((steps_add hm).trans hn) hread, hall.seq, rfl, ?_,
    List.getLast?_concat, hall.trace, hall.initd, hall.present, hall.hosterr⟩
  rw [crcOf, ← hcrct]
  exact hcrcu

end Sys2Proof.Machine
end
